-- ==== Sys2Proof/Word.lean ====
section
/-! DEFINITION. The plain words of the block: bytes, bus addresses, and the two levels of the bus line (R9, R10). -/

namespace Sys2Proof

/-- A payload byte, `W_DATA = 8` bits (R7). -/
abbrev Byte := BitVec 8

/-- A 12-bit bus address, `0x000 .. 0xFFF` (R63). -/
abbrev Addr := BitVec 12

/-- The two levels of the one bus line (R10). A line level is not a bit value (90_conflicts C3). -/
inductive Level where
  | dominant
  | recessive
deriving DecidableEq, Repr, Inhabited

/-- The three symbols a transmitter sends (R80). -/
inductive Symbol where
  /-- The start bit: the long pulse that opens a frame. -/
  | start
  /-- A pulse with the short driven phase, bit value `1`. -/
  | one
  /-- A pulse with the long driven phase, bit value `0`. -/
  | zero
deriving DecidableEq, Repr, Inhabited

/-- The symbol that carries a bit value (R80). -/
def Symbol.ofBit (b : Bool) : Symbol := if b then .one else .zero

/-- The station's part in an acknowledge slot (R85). -/
inductive AckRole where
  /-- The station that sent the field: it starts the pulse and listens (R117). -/
  | sender
  /-- The addressed station: it stretches the pulse (R118). -/
  | receiver
deriving DecidableEq, Repr, Inhabited

end Sys2Proof
end

