-- ==== Sys2Proof/Config.lean ====
section
/-! DEFINITION. The configuration of the block (R7, R42, R43): what is fixed while it runs, and the values the spec
leaves free. A configuration is plain data; the functions of the open lists are constants without a body. -/

namespace Sys2Proof

/-- `DS.MODE`: the play/stop mode (R34). -/
inductive PlayMode where
  | stop
  | play
deriving DecidableEq, Repr, Inhabited

/-- The enumerator of `DS.STATE` (R36); `other n` stands for the open end of the document's list. The register has 8 bits,
so there are 251 values beside the five named ones. -/
inductive DevStatus where
  | idle
  | seeking
  | playing
  | loading
  | error
  | other (n : Fin 251)
deriving DecidableEq, Repr, Inhabited

/-- The Device State record DS (R33 to R38). -/
structure DeviceState where
  mode : PlayMode
  track : Byte
  min : Byte
  sec : Byte
  status : DevStatus
  repeatOn : Bool
  randomOn : Bool
  scanOn : Bool
  aux : Byte
deriving DecidableEq, Repr, Inhabited

/-- The addressing mode of a Known Message (R90). -/
inductive AddrMode where
  | unicast
  | broadcast
deriving DecidableEq, Repr, Inhabited

/-- One entry `(mode, pattern, action)` of `CMD_TABLE` (R170). -/
structure CmdEntry where
  mode : AddrMode
  pattern : List Byte
  action : Byte
deriving DecidableEq, Repr, Inhabited

/-- The `effect` part of an action (R181, R182). -/
inductive Effect where
  | none
  | enable
  | disable
  | play
  | stop
  | ext (k : Nat)
deriving DecidableEq, Repr, Inhabited

/-- One entry of `ACTION_TABLE` (R181). -/
structure ActionEntry where
  effect : Effect
  pending : Bool
  responses : List Nat
deriving DecidableEq, Repr, Inhabited

/-- The source of a patched byte (R200, R201). -/
inductive PatchSource where
  | track
  | min
  | sec
  | flags
  | status
deriving DecidableEq, Repr, Inhabited

/-- A response template: a Known Message with its patch list (R200). Its length is the length of `bytes`. -/
structure Template where
  mode : AddrMode
  bytes : List Byte
  patches : List (Nat × PatchSource)
deriving DecidableEq, Repr, Inhabited

/-- `STATE_CODE` as data (R36): a byte for each named value, and the bytes of `other 0`, `other 1`, … The values that a
short list leaves out take the bytes that are not used, in rising order (`StateCodes.codes`); a list of all 251 gives
any one-to-one map. -/
structure StateCodes where
  idle : Byte
  seeking : Byte
  playing : Byte
  loading : Byte
  error : Byte
  others : List Byte
deriving DecidableEq, Repr, Inhabited

/-- `FLAGS_BYTE` (R202): the default packing, or one of the total functions a configuration may supply. -/
inductive FlagsPacking where
  | standard
  | custom (k : Nat)
deriving DecidableEq, Repr, Inhabited

/-- The parameters of R7 that are `OPEN`, with the tables of R43. The fixed ones (`MAX_ATTEMPTS`, `TIMEOUT_MULT`,
the field widths) are definitions of the model. `N_ACTIONS` is the length of `actionTable`. -/
structure Config where
  myAddr : Addr
  huAddr : Addr
  bcastAddr : Addr
  modeBitUnicast : Bool
  tBit : Nat
  t1Driven : Nat
  t0Driven : Nat
  tStartDriven : Nat
  tStartFloat : Nat
  tThreshold : Nat
  tMaxBit : Nat
  tStartMin : Nat
  tStartMax : Nat
  wTimer : Nat
  /-- `TICK_NS`; no rule depends on it (R7). -/
  tickNs : Nat
  queueCap : Nat
  cmdTable : List CmdEntry
  actionTable : List ActionEntry
  templates : List Template
  statusTemplate : Nat
  stateCode : StateCodes
  flagsByte : FlagsPacking
  tickPendingOnlyInPlay : Bool
deriving DecidableEq, Repr, Inhabited

/-- `EXT_k`: the configuration-supplied total functions on DS (R181, R182). No body: any total function. -/
opaque Config.extEffect (k : Nat) (ds : DeviceState) : DeviceState

/-- `FLAGS_BYTE` where the configuration replaces the default packing (R202). No body. -/
opaque Config.customFlags (k : Nat) (ds : DeviceState) : Byte

/-- The free values of the model: the value of a scratch register after an aborted operation (R23, U7). `site`
names the register, `draw` the occasion. -/
opaque Config.freeBits (w site draw : Nat) : BitVec w

end Sys2Proof
end

