-- ==== Sys2Proof/Machine/Flags.lean ====
section
/-! DEFINITION. Parity and the parity accumulator (R24, R84, R9), and the packed-BCD increment (R184). -/

namespace Sys2Proof

/-- `parity(n, v)`: the exclusive-or of the bits `v[n-1] .. v[0]` (R9, R84). -/
def parity {w : Nat} : (n : Nat) → (v : BitVec w) → Bool
  | 0, _ => false
  | k + 1, v => xor (v.getLsbD k) (parity k v)

/-- PAR after a received bit: the running count of `1`s mod 2 (R24, R113). -/
def accumulate (par b : Bool) : Bool := xor par b

/-- The increment routine on one packed-BCD byte, with the documented defect at `0x99` (R184). -/
def bcdInc (v : Byte) : Byte := if v.extractLsb' 0 4 = 9#4 then v + 7#8 else v + 1#8

/-- A byte whose two nibbles are decimal digits (GLOSSARY, packed BCD). -/
def isBcd (v : Byte) : Bool := decide (v.toNat % 16 ≤ 9) && decide (v.toNat / 16 ≤ 9)

/-- The decimal number that a packed-BCD byte stands for. -/
def bcdVal (v : Byte) : Nat := 10 * (v.toNat / 16) + v.toNat % 16

/-- A counter that stops at its top, `W_COUNT = 16` bits (R41). -/
def saturatingSucc (n : BitVec 16) : BitVec 16 := if n = 0xFFFF#16 then n else n + 1#16

end Sys2Proof
end

