-- ==== Sys2Proof/Machine/Legal.lean ====
section
/-! DEFINITION. The operand and length checks of R97 (c), R88 and R96, as the operations make them. -/

namespace Sys2Proof

/-- A field width of TX_FIELD and RX_FIELD is in `1..=12` (R112, R114). -/
def widthLegal (n : BitVec 4) : Bool := decide (1 ≤ n.toNat) && decide (n.toNat ≤ 12)

/-- The selectors of WR_TXF: 0 to 4, and `32 + i` for `PAY[i]` (R96). -/
def wrSelLegal (sel : BitVec 6) : Bool := decide (sel.toNat ≤ 4) || decide (32 ≤ sel.toNat)

/-- The selectors of RD_REG: 0 to 12, 16 to 21, `32 + i` for `RXF.PAY[i]`, 64 to 72 (R96). -/
def rdSelLegal (sel : BitVec 8) : Bool :=
  decide (sel.toNat ≤ 12) || (decide (16 ≤ sel.toNat) && decide (sel.toNat ≤ 21)) ||
    (decide (32 ≤ sel.toNat) && decide (sel.toNat ≤ 63)) || (decide (64 ≤ sel.toNat) && decide (sel.toNat ≤ 72))

/-- A length is legal in `1..=32` (R88, R146). -/
def lengthLegal (len : Nat) : Bool := decide (1 ≤ len) && decide (len ≤ 32)

end Sys2Proof
end

