-- ==== Sys2Proof/Syntax.lean ====
section
/-! DEFINITION. The instructions: one constructor per row of spec/opcode_table.json. The rows of format OP are the
operations of the host port (R95, R97); the rows of format PULSE and FRAME are the symbols and symbol groups of the
wire (R80, R82, R83, R85). -/

namespace Sys2Proof

inductive Instr where
  /-- OP 0x00 (R216). -/
  | nop
  /-- OP 0x01, `ARG0[0]` = the bit value (R110). -/
  | txBit (v : Bool)
  /-- OP 0x02 (R111). -/
  | txStart
  /-- OP 0x03, `ARG0[3:0]` = n, `ARG1[11:0]` = v (R112). -/
  | txField (n : BitVec 4) (v : BitVec 12)
  /-- OP 0x04 (R113). -/
  | rxBit
  /-- OP 0x05, `ARG0[3:0]` = n (R114). -/
  | rxField (n : BitVec 4)
  /-- OP 0x06 (R116). -/
  | rxStart
  /-- OP 0x07 (R117). -/
  | ackRead
  /-- OP 0x08 (R118). -/
  | ackSend
  /-- OP 0x09 (R140). -/
  | mask
  /-- OP 0x0A, `ARG0[0]` = the value to restore (R141). -/
  | unmask (p : Bool)
  /-- OP 0x0B (R145). -/
  | busFree
  /-- OP 0x0C (R146). -/
  | sendFrame
  /-- OP 0x0D (R150). -/
  | readFrame
  /-- OP 0x0E (R171). -/
  | dispatch
  /-- OP 0x0F, `ARG0[7:0]` = action identifier (R183). -/
  | applyAction (a : BitVec 8)
  /-- OP 0x10 (R185). -/
  | tick
  /-- OP 0x11, `ARG0[7:0]` = action identifier (R204). -/
  | respond (a : BitVec 8)
  /-- OP 0x12 (R205). -/
  | buildStatus
  /-- OP 0x13 (R206). -/
  | qPush
  /-- OP 0x14 (R207). -/
  | qPop
  /-- OP 0x15 (R209). -/
  | qDrain
  /-- OP 0x16 (R215). -/
  | runStep
  /-- OP 0x17, `ARG0[5:0]` = selector, `ARG1[11:0]` = value (R96). -/
  | wrTxf (sel : BitVec 6) (v : BitVec 12)
  /-- OP 0x18, `ARG0[7:0]` = selector (R96). -/
  | rdReg (sel : BitVec 8)
  /-- OP 0x19 (R260). -/
  | reset
  /-- OP 0x1A, reserved (R97). -/
  | reserved1A
  /-- OP 0x1B, reserved (R97). -/
  | reserved1B
  /-- OP 0x1C, reserved (R97). -/
  | reserved1C
  /-- OP 0x1D, reserved (R97). -/
  | reserved1D
  /-- OP 0x1E, reserved (R97). -/
  | reserved1E
  /-- OP 0x1F, reserved (R97). -/
  | reserved1F
  /-- The pulse of a bit `1` (R80). -/
  | symbol1
  /-- The pulse of a bit `0` (R80). -/
  | symbol0
  /-- The pulse of a start bit (R80). -/
  | symbolStart
  /-- The acknowledge slot, as the sender or as the addressed receiver (R85). -/
  | ackSlot (role : AckRole)
  /-- Start bit to length group of a unicast frame, with its three acknowledge slots (R82). -/
  | frameHeadUnicast (sender receiver : Addr) (control : BitVec 4) (length : BitVec 8)
  /-- Start bit to length group of a broadcast frame (R82). -/
  | frameHeadBroadcast (sender receiver : Addr) (control : BitVec 4) (length : BitVec 8)
  /-- A data byte, its parity bit and its acknowledge slot (R83). -/
  | dataGroupUnicast (d : BitVec 8)
  /-- A data byte and its parity bit (R83). -/
  | dataGroupBroadcast (d : BitVec 8)
deriving DecidableEq, Repr, Inhabited

end Sys2Proof
end

