-- ==== Sys2Proof/WellFormed.lean ====
section
/-! DEFINITION. Well-formed instructions: the operand checks of R97 (c) and the legal lengths of R88. An operation that
fails its check still has a meaning at the host port, BADOP (R97); a wire head that fails its check is an illegal
encoding, which the wire decoder rejects (R88). -/

namespace Sys2Proof

/-- An instruction whose operands the spec lists as legal, with `N_ACTIONS = nActions`. -/
def Instr.wf (nActions : Nat) : Instr → Bool
  | .txField n _ => widthLegal n
  | .rxField n => widthLegal n
  | .applyAction a => decide (a.toNat ≤ nActions)
  | .respond a => decide (a.toNat ≤ nActions)
  | .wrTxf sel _ => wrSelLegal sel
  | .rdReg sel => rdSelLegal sel
  | .frameHeadUnicast _ _ _ len => lengthLegal len.toNat
  | .frameHeadBroadcast _ _ _ len => lengthLegal len.toNat
  | .nop | .txBit _ | .txStart | .rxBit | .rxStart | .ackRead | .ackSend | .mask | .unmask _ | .busFree
  | .sendFrame | .readFrame | .dispatch | .tick | .buildStatus | .qPush | .qPop | .qDrain | .runStep | .reset
  | .reserved1A | .reserved1B | .reserved1C | .reserved1D | .reserved1E | .reserved1F
  | .symbol1 | .symbol0 | .symbolStart | .ackSlot _ | .dataGroupUnicast _ | .dataGroupBroadcast _ => true

end Sys2Proof
end

