-- ==== Sys2Proof/Decode.lean ====
section
/-! DEFINITION. The two encodings of the block and their decoders: the host port `OP`, `ARG0`, `ARG1` (R16, R95 to
R97), and the pulses, symbols and frames of the wire (R80 to R88). After the decoders, the encoder. -/

namespace Sys2Proof

/-! ## The host port -/

/-- What the host presents to start an operation: `OP[4:0]`, `ARG0[11:0]`, `ARG1[11:0]` (R16). -/
structure PortWord where
  op : BitVec 5
  arg0 : BitVec 12
  arg1 : BitVec 12
deriving DecidableEq, Repr, Inhabited

/-- A port word written as one number: OP in bits 4..0 of the first byte, whose bits 7..5 are no part of the port,
then ARG0 in bits 19..8 and ARG1 in bits 31..20. The spec gives the three ports no common word (DESIGN CHOICE). -/
def PortWord.ofNat (w : Nat) : PortWord :=
  { op := BitVec.ofNat 5 w, arg0 := BitVec.ofNat 12 (w >>> 8), arg1 := BitVec.ofNat 12 (w >>> 20) }

/-- The operation a port word starts (R95). Every one of the 32 codes has a row, the reserved ones too, so nothing is
refused here; operand bits above those R95 lists are ignored (R97 (c)). -/
def decodePort (w : PortWord) : Instr :=
  match w.op.toNat with
  | 0x00 => .nop
  | 0x01 => .txBit (w.arg0.getLsbD 0)
  | 0x02 => .txStart
  | 0x03 => .txField (w.arg0.setWidth 4) w.arg1
  | 0x04 => .rxBit
  | 0x05 => .rxField (w.arg0.setWidth 4)
  | 0x06 => .rxStart
  | 0x07 => .ackRead
  | 0x08 => .ackSend
  | 0x09 => .mask
  | 0x0A => .unmask (w.arg0.getLsbD 0)
  | 0x0B => .busFree
  | 0x0C => .sendFrame
  | 0x0D => .readFrame
  | 0x0E => .dispatch
  | 0x0F => .applyAction (w.arg0.setWidth 8)
  | 0x10 => .tick
  | 0x11 => .respond (w.arg0.setWidth 8)
  | 0x12 => .buildStatus
  | 0x13 => .qPush
  | 0x14 => .qPop
  | 0x15 => .qDrain
  | 0x16 => .runStep
  | 0x17 => .wrTxf (w.arg0.setWidth 6) w.arg1
  | 0x18 => .rdReg (w.arg0.setWidth 8)
  | 0x19 => .reset
  | 0x1A => .reserved1A
  | 0x1B => .reserved1B
  | 0x1C => .reserved1C
  | 0x1D => .reserved1D
  | 0x1E => .reserved1E
  | _ => .reserved1F

/-! ## Pulses: a driven duration to a symbol (R81) -/

/-- `RX_TIMEOUT = TIMEOUT_MULT × T_MAXBIT` with `TIMEOUT_MULT = 2` (R7). -/
def Config.rxTimeout (c : Config) : Nat := 2 * c.tMaxBit

/-- The bit value of a pulse at a data, mode, parity or ack position, from its driven duration; `none` is the
desynchronised class (R81). At exactly `T_THRESHOLD` the pulse is a `0` (R113). -/
def classifyData (c : Config) (d : Nat) : Option Bool :=
  if d > c.tMaxBit then none else some (decide (d < c.tThreshold))

/-- The classes of a pulse at the start position (R81). -/
inductive StartClass where
  | tooShort
  | accepted
  | tooLong
deriving DecidableEq, Repr, Inhabited

/-- The class of the first pulse of a frame, from its driven duration (R81). -/
def classifyStart (c : Config) (d : Nat) : StartClass :=
  if d < c.tStartMin then .tooShort else if d > c.tStartMax then .tooLong else .accepted

/-- An ack slot read by the sender is an acknowledgment exactly when it classifies as a `0` (R85, R117). -/
def classifyAck (c : Config) (d : Nat) : Bool := decide (c.tThreshold ≤ d) && decide (d ≤ c.tMaxBit)

/-- Why a decoder of the wire refuses. -/
inductive DecodeError where
  /-- A pulse at a data position longer than `T_MAXBIT` (R81). -/
  | desync
  /-- A start pulse below `T_START_MIN` (R81). -/
  | startShort
  /-- A start pulse above `T_START_MAX` (R81). -/
  | startLong
  /-- The symbols end inside a field. -/
  | truncated
  /-- A start symbol where a bit should stand, or none where the frame should open. -/
  | misplacedStart
  /-- A parity bit that does not match its field (R84). -/
  | parity
  /-- A length field outside `1..=32` (R88). -/
  | length
  /-- Symbols left over after the instruction. -/
  | trailing
deriving DecidableEq, Repr, Inhabited

/-- The symbol that a pulse of driven duration d carries at a data position (R81). -/
def decodeDataPulse (c : Config) (d : Nat) : Except DecodeError Symbol :=
  match classifyData c d with
  | none => .error .desync
  | some b => .ok (Symbol.ofBit b)

/-- The symbol that a pulse of driven duration d carries at the start position (R81). -/
def decodeStartPulse (c : Config) (d : Nat) : Except DecodeError Symbol :=
  match classifyStart c d with
  | .tooShort => .error .startShort
  | .tooLong => .error .startLong
  | .accepted => .ok .start

/-! ## Symbols: groups and heads (R82 to R88) -/

/-- The next symbol as a bit value. -/
def takeBit : List Symbol → Except DecodeError (Bool × List Symbol)
  | .one :: rest => .ok (true, rest)
  | .zero :: rest => .ok (false, rest)
  | .start :: _ => .error .misplacedStart
  | [] => .error .truncated

/-- The next n symbols as a number, most-significant bit first (R66), shifted in below acc. -/
def takeBits : (n : Nat) → (acc : Nat) → List Symbol → Except DecodeError (Nat × List Symbol)
  | 0, acc, syms => .ok (acc, syms)
  | k + 1, acc, syms =>
    match takeBit syms with
    | .error e => .error e
    | .ok (b, rest) => takeBits k (2 * acc + b.toNat) rest

/-- An n-bit field and its even-parity bit (R84). -/
def takeField (n : Nat) (syms : List Symbol) : Except DecodeError (BitVec n × List Symbol) :=
  match takeBits n 0 syms with
  | .error e => .error e
  | .ok (v, rest) =>
    match takeBit rest with
    | .error e => .error e
    | .ok (p, rest) =>
      if p = parity n (BitVec.ofNat n v) then .ok (BitVec.ofNat n v, rest) else .error .parity

/-- The ack slot of a unicast frame, acknowledged or not (R82, R85); a broadcast frame has none. -/
def takeSlot (unicast : Bool) (syms : List Symbol) : Except DecodeError (List Symbol) :=
  if unicast then
    match takeBit syms with
    | .error e => .error e
    | .ok (_, rest) => .ok rest
  else .ok syms

/-- The head of a frame, from its start bit to its length group (R82); the mode bit says whether ack slots are present
(R87, R98), and an illegal length is refused before its slot (R153). -/
def decodeHead (c : Config) : List Symbol → Except DecodeError (Instr × List Symbol)
  | [] => .error .truncated
  | .one :: _ => .error .misplacedStart
  | .zero :: _ => .error .misplacedStart
  | .start :: syms => do
    let (m, syms) ← takeBit syms
    let unicast := decide (m = c.modeBitUnicast)
    let (snd, syms) ← takeField 12 syms
    let (rcv, syms) ← takeField 12 syms
    let syms ← takeSlot unicast syms
    let (ctl, syms) ← takeField 4 syms
    let syms ← takeSlot unicast syms
    let (len, syms) ← takeField 8 syms
    if lengthLegal len.toNat then
      let syms ← takeSlot unicast syms
      if unicast then .ok (.frameHeadUnicast snd rcv ctl len, syms)
      else .ok (.frameHeadBroadcast snd rcv ctl len, syms)
    else .error .length

/-- One data group, in the mode that the head gave (R83, R98). -/
def decodeGroup (unicast : Bool) (syms : List Symbol) : Except DecodeError (Instr × List Symbol) := do
  let (d, syms) ← takeField 8 syms
  let syms ← takeSlot unicast syms
  if unicast then .ok (.dataGroupUnicast d, syms) else .ok (.dataGroupBroadcast d, syms)

/-- Where in a frame a wire instruction stands. The symbols alone do not say it: the pulse of an ack slot is the pulse
of a bit (R85), and a data group has ack slots or not by the mode of its frame (R87). -/
inductive WirePos where
  | symbol
  | ackSlot (role : AckRole)
  | head
  | group (unicast : Bool)
deriving DecidableEq, Repr, Inhabited

/-- One wire instruction at a position, and the symbols after it. -/
def decodeWire (c : Config) (pos : WirePos) (syms : List Symbol) : Except DecodeError (Instr × List Symbol) :=
  match pos, syms with
  | .symbol, .start :: rest => .ok (.symbolStart, rest)
  | .symbol, .one :: rest => .ok (.symbol1, rest)
  | .symbol, .zero :: rest => .ok (.symbol0, rest)
  | .symbol, [] => .error .truncated
  | .ackSlot _, .start :: _ => .error .misplacedStart
  | .ackSlot role, .one :: rest => .ok (.ackSlot role, rest)
  | .ackSlot role, .zero :: rest => .ok (.ackSlot role, rest)
  | .ackSlot _, [] => .error .truncated
  | .head, syms => decodeHead c syms
  | .group unicast, syms => decodeGroup unicast syms

/-! ## The two encodings together -/

/-- An encoded instruction: a word of the host port, or symbols at a position of the wire. -/
inductive Encoding where
  | port (w : PortWord)
  | wire (pos : WirePos) (syms : List Symbol)
deriving DecidableEq, Repr, Inhabited

/-- The instruction an encoding stands for; on the wire the symbols must end with it. -/
def decode (c : Config) : Encoding → Except DecodeError Instr
  | .port w => .ok (decodePort w)
  | .wire pos syms =>
    match decodeWire c pos syms with
    | .ok (i, []) => .ok i
    | .ok (_, _ :: _) => .error .trailing
    | .error e => .error e

/-- The instruction my port decoder reads from a row's word, numbered as spec/opcode_table.json numbers its bits. -/
def decodeTableWord (nbits w : Nat) : Option Instr :=
  some (decodePort (PortWord.ofNat (w % 2 ^ nbits)))

/-! ## The encoder -/

/-- The bits of the low n bits of v, most-significant first (R66). -/
def bitsMsb {w : Nat} : (n : Nat) → (v : BitVec w) → List Bool
  | 0, _ => []
  | k + 1, v => v.getLsbD k :: bitsMsb k v

/-- A field and its even-parity bit as symbols (R83, R84). -/
def fieldSymbols {w : Nat} (n : Nat) (v : BitVec w) : List Symbol :=
  (bitsMsb n v).map Symbol.ofBit ++ [Symbol.ofBit (parity n v)]

/-- The pulse that the sender starts in an ack slot, a `1` (R85); a broadcast frame has no slot. -/
def slotSymbols (unicast : Bool) : List Symbol := if unicast then [.one] else []

/-- The wire value of the mode bit (R87). -/
def Config.modeBit (c : Config) (unicast : Bool) : Bool := if unicast then c.modeBitUnicast else !c.modeBitUnicast

/-- The head of a frame as the sender starts it (R82). -/
def headSymbols (c : Config) (unicast : Bool) (snd rcv : Addr) (ctl : BitVec 4) (len : BitVec 8) : List Symbol :=
  [.start, Symbol.ofBit (c.modeBit unicast)] ++ fieldSymbols 12 snd ++ fieldSymbols 12 rcv ++ slotSymbols unicast ++
    fieldSymbols 4 ctl ++ slotSymbols unicast ++ fieldSymbols 8 len ++ slotSymbols unicast

/-- A data group as the sender starts it (R83). -/
def groupSymbols (unicast : Bool) (d : Byte) : List Symbol := fieldSymbols 8 d ++ slotSymbols unicast

/-- A word of the host port with unused operands zero. -/
def portWord (op : Nat) (arg0 arg1 : BitVec 12) : Encoding :=
  .port { op := BitVec.ofNat 5 op, arg0 := arg0, arg1 := arg1 }

/-- The encoding of an instruction, from the tables of R95 and R82, R83. -/
def encode (c : Config) : Instr → Encoding
  | .nop => portWord 0x00 0 0
  | .txBit v => portWord 0x01 (BitVec.ofNat 12 v.toNat) 0
  | .txStart => portWord 0x02 0 0
  | .txField n v => portWord 0x03 (n.setWidth 12) v
  | .rxBit => portWord 0x04 0 0
  | .rxField n => portWord 0x05 (n.setWidth 12) 0
  | .rxStart => portWord 0x06 0 0
  | .ackRead => portWord 0x07 0 0
  | .ackSend => portWord 0x08 0 0
  | .mask => portWord 0x09 0 0
  | .unmask p => portWord 0x0A (BitVec.ofNat 12 p.toNat) 0
  | .busFree => portWord 0x0B 0 0
  | .sendFrame => portWord 0x0C 0 0
  | .readFrame => portWord 0x0D 0 0
  | .dispatch => portWord 0x0E 0 0
  | .applyAction a => portWord 0x0F (a.setWidth 12) 0
  | .tick => portWord 0x10 0 0
  | .respond a => portWord 0x11 (a.setWidth 12) 0
  | .buildStatus => portWord 0x12 0 0
  | .qPush => portWord 0x13 0 0
  | .qPop => portWord 0x14 0 0
  | .qDrain => portWord 0x15 0 0
  | .runStep => portWord 0x16 0 0
  | .wrTxf sel v => portWord 0x17 (sel.setWidth 12) v
  | .rdReg sel => portWord 0x18 (sel.setWidth 12) 0
  | .reset => portWord 0x19 0 0
  | .reserved1A => portWord 0x1A 0 0
  | .reserved1B => portWord 0x1B 0 0
  | .reserved1C => portWord 0x1C 0 0
  | .reserved1D => portWord 0x1D 0 0
  | .reserved1E => portWord 0x1E 0 0
  | .reserved1F => portWord 0x1F 0 0
  | .symbol1 => .wire .symbol [.one]
  | .symbol0 => .wire .symbol [.zero]
  | .symbolStart => .wire .symbol [.start]
  | .ackSlot role => .wire (.ackSlot role) [.one]
  | .frameHeadUnicast s r k l => .wire .head (headSymbols c true s r k l)
  | .frameHeadBroadcast s r k l => .wire .head (headSymbols c false s r k l)
  | .dataGroupUnicast d => .wire (.group true) (groupSymbols true d)
  | .dataGroupBroadcast d => .wire (.group false) (groupSymbols false d)

end Sys2Proof
end

