-- ==== Sys2Proof/Machine/Params.lean ====
section
/-! DEFINITION. The parameters: the fixed ones of R7, the reference configuration REF (95_test_vectors part 1), the
well-formedness of a configuration (R8), and the table look-ups (R36, R43). -/

namespace Sys2Proof

/-- `MAX_ATTEMPTS`, 3 and not open (R7, 90_conflicts C2). -/
def maxAttempts : Nat := 3

/-- The control value of every frame the block builds, `CONTROL_WRITE` (R7, R89). -/
def controlWrite : BitVec 4 := 0xF#4

/-- `N_ACTIONS` (R7): the action table is indexed `1 .. N_ACTIONS` (R181). -/
def Config.nActions (c : Config) : Nat := c.actionTable.length

/-- `ACTION_TABLE[a]` for `1 ≤ a ≤ N_ACTIONS` (R181). -/
def Config.action (c : Config) (a : Nat) : Option ActionEntry :=
  match a with
  | 0 => none
  | k + 1 => c.actionTable[k]?

/-- The five named codes and the listed ones of `STATE_CODE` (R36). -/
def StateCodes.all (k : StateCodes) : List Byte := [k.idle, k.seeking, k.playing, k.loading, k.error] ++ k.others

/-- The place of a value in the enumerator of `DS.STATE` (R36). -/
def DevStatus.place : DevStatus → Nat
  | .idle => 0
  | .seeking => 1
  | .playing => 2
  | .loading => 3
  | .error => 4
  | .other n => 5 + n.val

/-- The codes of all 256 values of the enumerator, by their place (R36): the given ones, then the bytes not used. -/
def StateCodes.codes (k : StateCodes) : List Byte :=
  k.all ++ ((List.range 256).map (BitVec.ofNat 8)).filter (fun b => !k.all.contains b)

/-- `STATE_CODE`, a one-to-one map from the enumerator to bytes (R36). -/
def Config.stateByte (c : Config) (st : DevStatus) : Byte := (c.stateCode.codes[st.place]?).getD 0#8

/-- The default packing of the flags: REPEAT, RANDOM, SCAN, MODE, FUNC_EN in bits 0 to 4 (R202). -/
def standardFlags (ds : DeviceState) : Byte :=
  BitVec.ofNat 8 (ds.repeatOn.toNat + 2 * ds.randomOn.toNat + 4 * ds.scanOn.toNat +
    8 * (decide (ds.mode = .play)).toNat + 16 * (ds.aux.getLsbD 0).toNat)

/-- `FLAGS_BYTE(DS)` (R202). -/
def Config.flagsOf (c : Config) (ds : DeviceState) : Byte :=
  match c.flagsByte with
  | .standard => standardFlags ds
  | .custom k => Config.customFlags k ds

/-- R8 (a): the invariant of the document on the data pulses. -/
def Config.wfA (c : Config) : Bool :=
  decide (0 < c.t1Driven) && decide (c.t1Driven < c.tThreshold) && decide (c.tThreshold < c.t0Driven)

/-- R8 (b): every data bit has a floating phase. -/
def Config.wfB (c : Config) : Bool := decide (c.t0Driven < c.tBit) && decide (c.t1Driven < c.tBit)

/-- R8 (c). -/
def Config.wfC (c : Config) : Bool := decide (c.tBit ≤ c.tMaxBit) && decide (c.t0Driven ≤ c.tMaxBit)

/-- R8 (d): a start bit cannot be taken for a data bit. -/
def Config.wfD (c : Config) : Bool :=
  decide (c.tMaxBit < c.tStartMin) && decide (c.tStartMin ≤ c.tStartDriven) && decide (c.tStartDriven ≤ c.tStartMax)

/-- R8 (e): a bus-free check never passes inside a frame. -/
def Config.wfE (c : Config) : Bool := decide (1 ≤ c.tStartFloat) && decide (c.tStartFloat < c.tBit)

/-- R8 (f): a measured duration never wraps the timer. -/
def Config.wfF (c : Config) : Bool := decide (max c.tStartMax c.rxTimeout + 1 < 2 ^ c.wTimer)

/-- R8 (g): the queue capacity is a power of two up to 128. The addresses are below `2^12` by their type. -/
def Config.wfG (c : Config) : Bool := [1, 2, 4, 8, 16, 32, 64, 128].contains c.queueCap

/-- R8 (h): the lengths of patterns and templates, and the patch offsets. -/
def Config.wfH (c : Config) : Bool :=
  c.cmdTable.all (fun e => lengthLegal e.pattern.length) &&
    c.templates.all (fun t => lengthLegal t.bytes.length && t.patches.all (fun p => decide (p.1 < t.bytes.length)))

/-- The ranges of the table indices: `N_ACTIONS ≥ 4` (R7) in the 8 bits of an action identifier (R95), the actions of
`CMD_TABLE` (R170), the template identifiers (R181, R200), and `STATE_CODE` one-to-one (R36). -/
def Config.wfTables (c : Config) : Bool :=
  decide (4 ≤ c.nActions) && decide (c.nActions ≤ 255) &&
    c.cmdTable.all (fun e => decide (1 ≤ e.action.toNat) && decide (e.action.toNat ≤ c.nActions)) &&
    c.actionTable.all (fun a => a.responses.all (fun t => decide (t < c.templates.length))) &&
    decide (c.statusTemplate < c.templates.length) && decide c.stateCode.all.Nodup

/-- A configuration the model accepts (R8, U8). -/
def Config.wf (c : Config) : Bool :=
  c.wfA && c.wfB && c.wfC && c.wfD && c.wfE && c.wfF && c.wfG && c.wfH && c.wfTables

/-- The reference configuration REF of 95_test_vectors part 1: the defaults of R7. The addresses, the mode-bit polarity
and the five transmit durations are from general knowledge (G1 to G5), the rest are the spec's test values. -/
def refConfig : Config :=
  { myAddr := 0x360#12, huAddr := 0x190#12, bcastAddr := 0x1FF#12, modeBitUnicast := true,
    tBit := 39, t1Driven := 20, t0Driven := 32, tStartDriven := 168, tStartFloat := 18,
    tThreshold := 26, tMaxBit := 45, tStartMin := 150, tStartMax := 190,
    wTimer := 16, tickNs := 1000, queueCap := 4,
    cmdTable :=
      [ { mode := .unicast, pattern := [0xA0#8, 0x01#8], action := 3#8 },
        { mode := .unicast, pattern := [0xA0#8], action := 4#8 },
        { mode := .broadcast, pattern := [0xB0#8, 0x01#8], action := 1#8 },
        { mode := .broadcast, pattern := [0xB0#8, 0x00#8], action := 2#8 } ],
    actionTable :=
      [ { effect := .enable, pending := false, responses := [0] },
        { effect := .disable, pending := false, responses := [] },
        { effect := .play, pending := true, responses := [1] },
        { effect := .stop, pending := true, responses := [2, 3] } ],
    templates :=
      [ { mode := .unicast, bytes := [0xB1#8, 0x01#8], patches := [] },
        { mode := .unicast, bytes := [0xA1#8, 0x01#8], patches := [] },
        { mode := .unicast, bytes := [0xA1#8, 0x00#8], patches := [] },
        { mode := .broadcast, bytes := [0x5B#8, 0x00#8, 0x00#8], patches := [(1, .track), (2, .flags)] },
        { mode := .broadcast, bytes := [0x5A#8, 0x00#8, 0x00#8, 0x00#8, 0x00#8, 0x00#8],
          patches := [(1, .status), (2, .track), (3, .min), (4, .sec), (5, .flags)] } ],
    statusTemplate := 4,
    stateCode := { idle := 0x00#8, seeking := 0x01#8, playing := 0x02#8, loading := 0x03#8, error := 0x04#8, others := [] },
    flagsByte := .standard,
    tickPendingOnlyInPlay := false }

end Sys2Proof
end

