-- ==== Sys2Proof/Machine/State.lean ====
section
/-! DEFINITION. The state of the block (R20), as plain data; with it, as data the step reads, the parameters that R46
names: the configuration, the clock `now`, the bus environment, the tick arrivals and the operations the host issues;
and the block's two output streams. -/

namespace Sys2Proof.Machine

/-- A payload buffer as a memory (R60): bytes by payload index, in rising order of index, none equal to
`Memory.unlisted`. -/
abbrev Memory := List Host.Cell

/-- What a payload byte reads as that no entry lists: the reset value 0 of `PAY[0..31]` (R45). -/
def Memory.unlisted : Byte := 0#8

/-- A frame with the fields of TXF (R22). -/
structure Frame where
  unicast : Bool
  sender : Addr
  receiver : Addr
  control : BitVec 4
  length : BitVec 6
  pay : Memory
deriving DecidableEq, Repr, Inhabited

/-- The frame with every field 0 (R45). -/
def Frame.zero : Frame :=
  { unicast := false, sender := 0#12, receiver := 0#12, control := 0#4, length := 0#6, pay := [] }

/-- A frame with a VALID bit: RXF, and the working frame WF (R21, R23). -/
structure RxFrame where
  valid : Bool
  frame : Frame
deriving DecidableEq, Repr, Inhabited

def RxFrame.zero : RxFrame := { valid := false, frame := Frame.zero }

/-- `RESULT.CODE` (R92). The numbers 13 to 15 are never produced (U3). -/
inductive ResCode where
  | ok
  | busy
  | nak
  | startShort
  | startLong
  | desync
  | parity
  | length
  | badlen
  | badop
  | empty
  | overflow
  | dropped
deriving DecidableEq, Repr, Inhabited

/-- `RESULT.FIELD`, the field-position codes (R93). The numbers 12 to 15 are never produced (U3). -/
inductive FieldPos where
  | none
  | start
  | mode
  | sender
  | receiver
  | addrAck
  | control
  | controlAck
  | length
  | lengthAck
  | data
  | dataAck
deriving DecidableEq, Repr, Inhabited

/-- RESULT (R31), and the record of a DIAG event (R94). -/
structure ResultReg where
  code : ResCode
  field : FieldPos
  index : BitVec 6
deriving DecidableEq, Repr, Inhabited

/-- The sequencer position (R28): IDLE, or an operation (its 5-bit code) at a field position or DONE. -/
inductive Seq where
  | idle
  | busy (op : BitVec 5) (pos : FieldPos)
  | finished (op : BitVec 5)
deriving DecidableEq, Repr, Inhabited

/-- What reaches the block between operations, in order: an operation the host issues (R16), a 1 Hz arrival while no
operation runs (R240), or a stretch of time in which the block stays idle at the host port (R255). -/
inductive Input where
  | op (w : PortWord)
  | tick
  | idle (n : Nat)
deriving DecidableEq, Repr, Inhabited

@[ext]
structure State where
  /-- The configuration inputs and the tables (R42, R43), constant: no operation writes it. -/
  cfg : Config
  /-- RXF (R21). -/
  rxf : RxFrame
  /-- TXF (R22). -/
  txf : Frame
  /-- SHIFT (R23). -/
  shift : BitVec 12
  /-- BITCNT (R23). -/
  bitcnt : BitVec 4
  /-- DUR (R23), `W_TIMER` bits: a number below `2^W_TIMER`. -/
  dur : Nat
  /-- IDX (R23). -/
  idx : BitVec 6
  /-- ATT (R23). -/
  att : BitVec 2
  /-- WF, the working frame of READ_FRAME (R23). -/
  wfr : RxFrame
  /-- PAR (R24). -/
  par : Bool
  /-- MASKED (R29). -/
  masked : Bool
  /-- TICK_LATCH (R30). -/
  tickLatch : Bool
  /-- RESP_PENDING (R39). -/
  respPending : Bool
  /-- DRV (R25). -/
  drv : Bool
  /-- The tick at which TIMER read 0 last by a RESET; TIMER itself is `State.timer` (R26). -/
  timerBase : Nat
  /-- SEQ (R28). -/
  seq : Seq
  /-- RESULT (R31). -/
  result : ResultReg
  /-- ACT (R32). -/
  act : Byte
  /-- VAL (R32). -/
  val : BitVec 12
  /-- DS (R33). -/
  ds : DeviceState
  /-- The slots of Q (R40) by slot number, rising, none equal to the zero frame that an unlisted slot holds. -/
  slots : List (Nat × Frame)
  /-- QW (R40). -/
  qw : Byte
  /-- QR (R40). -/
  qr : Byte
  /-- OVF_COUNT (R41). -/
  ovfCount : BitVec 16
  /-- DROP_COUNT (R41). -/
  dropCount : BitVec 16
  /-- The clock of the model (R10). Not state of the block (R46). -/
  now : Nat
  /-- `EnvDrive` (R10) as data: the stretches (first tick, number of ticks) in which some other agent drives. -/
  env : List (Nat × Nat)
  /-- The ticks at which 1 Hz arrivals come that no `Input.tick` lists, in particular inside operations (R46, R240). -/
  arrivals : List Nat
  /-- What comes to the block between operations, the next first (R16, R46). -/
  inputs : List Input
  /-- The DIAG output (R252), the oldest event first. -/
  diag : List ResultReg
  /-- The assignments to DRV with their ticks (R11), the latest first: what the core has put on the line. -/
  drvLog : List (Nat × Bool)
  /-- The model's own: how many free values have been taken. -/
  draws : Nat
deriving DecidableEq, Repr, Inhabited

/-- No step ends in a fault. The spec gives the block no error that stops it: every error is a result code, after which
the block goes on ("None of them are treated as fatal", R230). -/
inductive Fault where
deriving DecidableEq, Repr

/-- Why a step is refused. -/
inductive Refusal where
  /-- Raised by a dispatch arm of an instruction that has no meaning yet. Safe. No arm raises it. -/
  | notModelled (mnemonic : String)
  /-- Raised by `step` when the configuration breaks R8 or an index range of the tables: the spec tells the model to
  refuse it (R8, U8). Safe. -/
  | illFormedConfig
deriving DecidableEq, Repr

/-- `RESULT = (OK, NONE, 0)`. -/
def ResultReg.okay : ResultReg := { code := .ok, field := .none, index := 0#6 }

/-- DS after reset (R45). -/
def resetDs : DeviceState :=
  { mode := .stop, track := 0x01#8, min := 0x00#8, sec := 0x00#8, status := .idle,
    repeatOn := false, randomOn := false, scanOn := false, aux := 0x00#8 }

/-- The machine right after reset (R45, R260), with the reference configuration, a silent bus, and nothing at the host
port or the tick input. -/
def State.reset : State :=
  { cfg := refConfig,
    rxf := RxFrame.zero, txf := Frame.zero,
    shift := 0#12, bitcnt := 0#4, dur := 0, idx := 0#6, att := 0#2, wfr := RxFrame.zero,
    par := false, masked := false, tickLatch := false, respPending := false,
    drv := false, timerBase := 0, seq := .idle,
    result := ResultReg.okay, act := 0#8, val := 0#12,
    ds := resetDs,
    slots := [], qw := 0#8, qr := 0#8, ovfCount := 0#16, dropCount := 0#16,
    now := 0, env := [], arrivals := [], inputs := [],
    diag := [], drvLog := [], draws := 0 }

end Sys2Proof.Machine
end

