-- ==== Sys2Proof/Machine/Memory.lean ====
section
/-! DEFINITION. The indexed storages of R60 and their one canonical form: entries in strictly rising order of index,
none equal to what an unlisted index holds, so that equal contents are equal data. Used for the bytes of a payload
buffer and for the slots of the queue. -/

namespace Sys2Proof.Machine

variable {α : Type} [DecidableEq α]

/-- The element at an index. -/
def cellsRead (dflt : α) : List (Nat × α) → Nat → α
  | [], _ => dflt
  | (b, w) :: m, a => if b = a then w else cellsRead dflt m a

/-- An entry put before the first one of a higher index. -/
def cellsInsert (a : Nat) (v : α) : List (Nat × α) → List (Nat × α)
  | [] => [(a, v)]
  | (b, w) :: m => if a < b then (a, v) :: (b, w) :: m else (b, w) :: cellsInsert a v m

/-- One whole element written at an index (R60); writing the value of an unlisted index leaves no entry. -/
def cellsWrite (dflt : α) (m : List (Nat × α)) (a : Nat) (v : α) : List (Nat × α) :=
  let rest := m.filter (fun c => !decide (c.1 = a))
  if v = dflt then rest else cellsInsert a v rest

/-- The canonical form, with every index below a bound. -/
def cellsWf (dflt : α) (bound : Nat) : List (Nat × α) → Bool
  | [] => true
  | (a, v) :: m => decide (a < bound) && decide (v ≠ dflt) && m.all (fun c => decide (a < c.1)) && cellsWf dflt bound m

/-- `PAY[i]` (R9, R60). -/
def Memory.read (m : Memory) (i : Nat) : Byte := cellsRead Memory.unlisted m i

/-- `PAY[i] <- v` (R9, R60). -/
def Memory.write (m : Memory) (i : Nat) (v : Byte) : Memory := cellsWrite Memory.unlisted m i v

/-- The canonical form of a payload buffer: 32 bytes at the indices `0 .. 31` (R60, R61). -/
def Memory.wf (m : Memory) : Bool := cellsWf Memory.unlisted 32 m

/-- `dst.PAY[0 .. n-1] <- src.PAY[0 .. n-1]` (R150, R62). -/
def Memory.copyPrefix (src dst : Memory) : (n : Nat) → Memory
  | 0 => dst
  | k + 1 => (Memory.copyPrefix src dst k).write k (src.read k)

/-- Bytes laid down from an index on (R203). -/
def Memory.writeBytes (m : Memory) (i : Nat) : List Byte → Memory
  | [] => m
  | b :: bs => (m.write i b).writeBytes (i + 1) bs

/-- The first n bytes of a payload, in order (R67). -/
def Memory.bytes (m : Memory) : (n : Nat) → List Byte
  | 0 => []
  | k + 1 => m.bytes k ++ [m.read k]

/-- `Q[k]` (R40, R60). -/
def slotRead (slots : List (Nat × Frame)) (k : Nat) : Frame := cellsRead Frame.zero slots k

/-- `Q[k] <- F` (R40, R60). -/
def slotWrite (slots : List (Nat × Frame)) (k : Nat) (f : Frame) : List (Nat × Frame) :=
  cellsWrite Frame.zero slots k f

end Sys2Proof.Machine
end

