-- ==== Sys2Proof/Machine/Operands.lean ====
section
/-! DEFINITION. The numbers of the result codes and positions (R92, R93), the register selectors of WR_TXF and RD_REG
(R96), and the interval timer (R26). -/

namespace Sys2Proof.Machine

/-- The number of a result code (R92). -/
def ResCode.number : ResCode → Nat
  | .ok => 0
  | .busy => 1
  | .nak => 2
  | .startShort => 3
  | .startLong => 4
  | .desync => 5
  | .parity => 6
  | .length => 7
  | .badlen => 8
  | .badop => 9
  | .empty => 10
  | .overflow => 11
  | .dropped => 12

/-- The number of a field position (R93). -/
def FieldPos.number : FieldPos → Nat
  | .none => 0
  | .start => 1
  | .mode => 2
  | .sender => 3
  | .receiver => 4
  | .addrAck => 5
  | .control => 6
  | .controlAck => 7
  | .length => 8
  | .lengthAck => 9
  | .data => 10
  | .dataAck => 11

/-- RESULT as its 14 bits (R31). R31 gives the widths of CODE, FIELD and INDEX and no place for them in the word: that CODE
lies above FIELD and FIELD above INDEX is a DESIGN CHOICE (notes/assumptions/25). No operation reads this view. -/
def ResultReg.bits (r : ResultReg) : BitVec 14 :=
  BitVec.ofNat 4 r.code.number ++ BitVec.ofNat 4 r.field.number ++ r.index

/-- TIMER (R26): the count of ticks modulo `2^W_TIMER`, from 0 at the last RESET. -/
def State.timer (s : State) : Nat := (s.now - s.timerBase) % 2 ^ s.cfg.wTimer

/-- A measured duration as DUR holds it, `W_TIMER` bits (R12, R23). -/
def State.durOf (s : State) (d : Nat) : Nat := d % 2 ^ s.cfg.wTimer

/-- A flag on the value port, zero-extended (R32). -/
def bitVal (b : Bool) : BitVec 12 := BitVec.ofNat 12 b.toNat

/-- The register that RD_REG puts on VAL, zero-extended or cut to its low 12 bits; `none` for an unlisted selector
(R96). -/
def readReg (s : State) (sel : BitVec 8) : Option (BitVec 12) :=
  let i := sel.toNat
  if i = 0 then some (BitVec.ofNat 12 s.result.code.number)
  else if i = 1 then some (BitVec.ofNat 12 s.result.field.number)
  else if i = 2 then some (s.result.index.setWidth 12)
  else if i = 3 then some (s.act.setWidth 12)
  else if i = 4 then some (BitVec.ofNat 12 s.dur)
  else if i = 5 then some (bitVal s.par)
  else if i = 6 then some (bitVal s.masked)
  else if i = 7 then some (bitVal s.tickLatch)
  else if i = 8 then some (bitVal s.respPending)
  else if i = 9 then some (s.qw.setWidth 12)
  else if i = 10 then some (s.qr.setWidth 12)
  else if i = 11 then some (s.ovfCount.setWidth 12)
  else if i = 12 then some (s.dropCount.setWidth 12)
  else if i = 16 then some (bitVal s.rxf.valid)
  else if i = 17 then some (bitVal s.rxf.frame.unicast)
  else if i = 18 then some s.rxf.frame.sender
  else if i = 19 then some s.rxf.frame.receiver
  else if i = 20 then some (s.rxf.frame.control.setWidth 12)
  else if i = 21 then some (s.rxf.frame.length.setWidth 12)
  else if 32 ≤ i ∧ i ≤ 63 then some ((s.rxf.frame.pay.read (i - 32)).setWidth 12)
  else if i = 64 then some (bitVal (decide (s.ds.mode = .play)))
  else if i = 65 then some (s.ds.track.setWidth 12)
  else if i = 66 then some (s.ds.min.setWidth 12)
  else if i = 67 then some (s.ds.sec.setWidth 12)
  else if i = 68 then some ((s.cfg.stateByte s.ds.status).setWidth 12)
  else if i = 69 then some (bitVal s.ds.repeatOn)
  else if i = 70 then some (bitVal s.ds.randomOn)
  else if i = 71 then some (bitVal s.ds.scanOn)
  else if i = 72 then some (s.ds.aux.setWidth 12)
  else none

/-- TXF with the field that a WR_TXF selector names replaced by the value, cut to the field's width; `none` for an
unlisted selector (R96). -/
def writeTxf (f : Frame) (sel : BitVec 6) (v : BitVec 12) : Option Frame :=
  let i := sel.toNat
  if i = 0 then some { f with unicast := v.getLsbD 0 }
  else if i = 1 then some { f with sender := v }
  else if i = 2 then some { f with receiver := v }
  else if i = 3 then some { f with control := v.setWidth 4 }
  else if i = 4 then some { f with length := v.setWidth 6 }
  else if 32 ≤ i then some { f with pay := f.pay.write (i - 32) (v.setWidth 8) }
  else none

end Sys2Proof.Machine
end

