-- ==== Sys2Proof/Machine/Ops.lean ====
section
/-! DEFINITION. The primitives that the operations share: the bus line and time (R10 to R12), results and diagnostics
(R31, R94), the abort sequence of an error (R246), the 1 Hz tick and the masked section (R140, R141, R185, R240, R241),
and the exit of a frame operation (R151). -/

namespace Sys2Proof.Machine

/-! ## The line and time -/

/-- `EnvDrive(t)` (R10): some other agent drives at tick t. -/
def envDrives (env : List (Nat × Nat)) (t : Nat) : Bool :=
  env.any (fun p => decide (p.1 ≤ t) && decide (t < p.1 + p.2))

/-- `Line(t)` while DRV keeps its value (R10). -/
def lineLevel (drv : Bool) (env : List (Nat × Nat)) (t : Nat) : Level :=
  if drv || envDrives env t then .dominant else .recessive

/-- `Line(t)` as the core sees it from a state on, DRV unchanged (R10, R27). -/
def State.line (s : State) (t : Nat) : Level := lineLevel s.drv s.env t

/-- `DRV(t)` from the record of the assignments (R11): the value of the latest one made at or before t. -/
def drvAt : List (Nat × Bool) → Nat → Bool
  | [], _ => false
  | (u, b) :: log, t => if u ≤ t then b else drvAt log t

/-- `DRV <- b` (R11). -/
def setDrv (b : Bool) (s : State) : State := { s with drv := b, drvLog := (s.now, b) :: s.drvLog }

/-- `WaitTicks(n)` (R11). -/
def waitTicks (n : Nat) (s : State) : State := { s with now := s.now + n }

/-- The ticks until the first sample at level L, of at most `limit` samples from tick t on (R12). -/
def pollCount (drv : Bool) (env : List (Nat × Nat)) (lvl : Level) : (limit : Nat) → (t : Nat) → Option Nat
  | 0, _ => none
  | k + 1, t => if lineLevel drv env t = lvl then some 0 else (pollCount drv env lvl k (t + 1)).map (· + 1)

/-- `WaitFor(L, limit)` (R12): the count e if found, and the state after. -/
def waitFor (lvl : Level) (limit : Nat) (s : State) : Option Nat × State :=
  match pollCount s.drv s.env lvl limit s.now with
  | some e => (some e, waitTicks e s)
  | none => (none, waitTicks limit s)

/-! ## Results, diagnostics, errors -/

/-- `RESULT <- r` (R31). -/
def setResult (r : ResultReg) (s : State) : State := { s with result := r }

/-- `emit DIAG r` (R94, R252). -/
def emit (r : ResultReg) (s : State) : State := { s with diag := s.diag ++ [r] }

/-- `RESULT <- (c, NONE, 0)`. -/
def report (c : ResCode) (s : State) : State := setResult { code := c, field := .none, index := 0#6 } s

/-- A payload of free bytes at the indices below n (U7). -/
def freePayload (draw : Nat) : (n : Nat) → Memory
  | 0 => []
  | k + 1 => (freePayload draw k).write k (Config.freeBits 8 (16 + k) draw)

/-- A working frame of free values (U7). -/
def freeRxFrame (draw : Nat) : RxFrame :=
  { valid := (Config.freeBits 1 4 draw).getLsbD 0,
    frame :=
      { unicast := (Config.freeBits 1 5 draw).getLsbD 0, sender := Config.freeBits 12 6 draw,
        receiver := Config.freeBits 12 7 draw, control := Config.freeBits 4 8 draw,
        length := Config.freeBits 6 9 draw, pay := freePayload draw 32 } }

/-- The scratch registers SHIFT, BITCNT, IDX and WF after an aborted operation: unspecified, so free values (R23,
U7). -/
def scramble (s : State) : State :=
  { s with shift := Config.freeBits 12 0 s.draws, bitcnt := Config.freeBits 4 1 s.draws,
           idx := Config.freeBits 6 2 s.draws, wfr := freeRxFrame s.draws, draws := s.draws + 1 }

/-- The abort sequence, steps (1) to (3) (R246, R109): release the bus, record the error, emit it. -/
def abortBus (r : ResultReg) (s : State) : State := scramble (emit r (setResult r (setDrv false s)))

/-- The outcome of a step of an operation: it goes on with a value, or it has raised an error (R13). -/
inductive Res (α : Type) where
  | ok (a : α) (s : State)
  | err (e : ResultReg) (s : State)

/-- What follows a step that may raise: nothing after a raise is executed (R13). -/
def Res.andThen {α β : Type} : Res α → (α → State → Res β) → Res β
  | .ok a s, k => k a s
  | .err e s, _ => .err e s

/-- An error of a codec step, reported by the frame operation at its position (R150, R230, R231, R232; DEDUCED: log 10,
which says where the last sentences of R93 differ). -/
def Res.atPos {α : Type} (f : FieldPos) (i : BitVec 6) : Res α → Res α
  | .ok a s => .ok a s
  | .err e s => .err { code := e.code, field := f, index := i } s

/-- An error that carries no position (R109; DEDUCED: log 10). -/
def raised (c : ResCode) : ResultReg := { code := c, field := .none, index := 0#6 }

/-- The end of an operation the host issued on its own, outside a frame operation (R109): RESULT is OK, or the error
after the abort steps (1) to (3). -/
def finish {α : Type} (r : Res α) (k : α → State → State) : State :=
  match r with
  | .ok a s => setResult ResultReg.okay (k a s)
  | .err e s => abortBus e s

/-! ## The 1 Hz tick and the masked section -/

/-- The effect of TICK on DS and RESP_PENDING, the same however it is served (R185). -/
def tickEffect (s : State) : State :=
  let playing := decide (s.ds.mode = .play)
  let sec := bcdInc s.ds.sec
  let ds :=
    if playing then
      if sec = 0x60#8 then { s.ds with sec := 0x00#8, min := bcdInc s.ds.min } else { s.ds with sec := sec }
    else s.ds
  { s with ds := ds, respPending := s.respPending || playing || !s.cfg.tickPendingOnlyInPlay }

/-- A 1 Hz arrival while no operation runs (R240, R241): served at once, or latched while MASKED is 1; it does not write
RESULT (R244). -/
def deliverTick (s : State) : State := if s.masked then { s with tickLatch := true } else tickEffect s

/-- `MASKED <- p`, and a latched tick is served when that makes MASKED 0 (R141, R151). -/
def restoreMask (p : Bool) (s : State) : State :=
  if !p && s.tickLatch then tickEffect { s with masked := p, tickLatch := false } else { s with masked := p }

/-- The arrivals that came while a frame operation ran, at the ticks before `now`: the first sets TICK_LATCH, a further
one is lost (R241). -/
def latchArrivals (s : State) : State :=
  { s with tickLatch := s.tickLatch || s.arrivals.any (fun t => decide (t < s.now)),
           arrivals := s.arrivals.filter (fun t => !decide (t < s.now)) }

/-- `SEQ <- IDLE`. -/
def seqIdle (s : State) : State := { s with seq := .idle }

/-- The exit duties of SEND_FRAME and READ_FRAME, on every path (R151, R246). -/
def exitFrame (prev : Bool) (r : ResultReg) (s : State) : State :=
  let s := latchArrivals s
  let s := if r.code = .ok then setResult r (setDrv false s) else abortBus r s
  restoreMask prev (seqIdle s)

end Sys2Proof.Machine
end

