-- ==== Sys2Proof/Machine/Boundary.lean ====
section
/-! DEFINITION. What happens between operations: 1 Hz arrivals (R240, R241), idling (R255), and the host's next
operation (R16). -/

namespace Sys2Proof.Machine

/-- An arrival has come that has not been served (R240). -/
def State.arrivalDue (s : State) : Bool := s.arrivals.any (fun t => decide (t ≤ s.now))

/-- The first such arrival taken from the list. -/
def takeArrival (s : State) : State := { s with arrivals := s.arrivals.eraseP (fun t => decide (t ≤ s.now)) }

/-- What the block does next: serve a due arrival, a step of its own; else take what comes at the host port. -/
inductive Todo where
  /-- Serve a 1 Hz arrival (R240). -/
  | serve (s : State)
  /-- Stay idle for a number of ticks (R255). -/
  | wait (n : Nat) (s : State)
  /-- Run an operation (R16). -/
  | run (w : PortWord) (s : State)

/-- The ticks of an idle stretch of n that pass before the next arrival: an arrival with no operation running is served at
once (R240). -/
def State.idleTicks (s : State) (n : Nat) : Nat := s.arrivals.foldl (fun k t => min k (t - s.now)) n

/-- What is left of an idle stretch of which k ticks of n have passed. -/
def idleRest (k n : Nat) (rest : List Input) : List Input := if k < n then .idle (n - k) :: rest else rest

/-- The next thing to do, and the state with it taken off the list it stood in. An idle stretch is taken up to the next
arrival. With nothing at the port, one tick passes. -/
def nextTodo (s : State) : Todo :=
  if s.arrivalDue then .serve (takeArrival s)
  else
    match s.inputs with
    | [] => .wait 1 s
    | .tick :: rest => .serve { s with inputs := rest }
    | .idle n :: rest => .wait (s.idleTicks n) { s with inputs := idleRest (s.idleTicks n) n rest }
    | .op w :: rest => .run w { s with inputs := rest }

/-- A port word put where the block takes its next operation, with no arrival due before it. -/
def placeOp (w : PortWord) (s : State) : State :=
  { s with inputs := .op w :: s.inputs, arrivals := s.arrivals.filter (fun t => !decide (t ≤ s.now)) }

end Sys2Proof.Machine
end

