-- ==== Sys2Proof/Machine/Codec.lean ====
section
/-! DEFINITION. The Bit Codec (40_bit_codec): the steps that frame operations share, and the meanings of TX_BIT,
TX_START, TX_FIELD, RX_BIT, RX_FIELD, RX_START, ACK_READ and ACK_SEND. VAL is written by the operation the host issued,
not by a step inside another one (R114, R109). -/

namespace Sys2Proof.Machine

/-! ## Transmit -/

/-- One pulse: driven, then floating (R80). -/
def txPulse (driven floating : Nat) (s : State) : State :=
  waitTicks floating (setDrv false (waitTicks driven (setDrv true s)))

/-- The driven phase of a bit (R80). -/
def Config.driven (c : Config) (v : Bool) : Nat := if v then c.t1Driven else c.t0Driven

/-- TX_BIT as a step (R110). -/
def txBit (v : Bool) (s : State) : State :=
  txPulse (Config.driven s.cfg v) (s.cfg.tBit - Config.driven s.cfg v) s

/-- TX_START as a step (R111). -/
def txStart (s : State) : State := txPulse s.cfg.tStartDriven s.cfg.tStartFloat s

/-- The bits `v[k-1] .. v[0]`, most-significant first, with BITCNT the bits still to go (R112, R23). -/
def txBits (v : BitVec 12) : (k : Nat) → State → State
  | 0, s => s
  | k + 1, s => txBits v k { txBit (v.getLsbD k) s with bitcnt := BitVec.ofNat 4 k }

/-- `v[n-1:0]`. -/
def lowBits (n : Nat) (v : BitVec 12) : BitVec 12 := (v.setWidth n).setWidth 12

/-- TX_FIELD as a step, for a legal width: the field, then its even-parity bit (R112). -/
def txField (n : Nat) (v : BitVec 12) (s : State) : State :=
  txBit (parity n v) (txBits (lowBits n v) n { s with shift := lowBits n v, bitcnt := BitVec.ofNat 4 n })

/-! ## Receive -/

/-- RX_BIT as a step (R113): it writes DUR and PAR and hands the bit to its caller. -/
def rxBit (s : State) : Res Bool :=
  match waitFor .dominant s.cfg.rxTimeout s with
  | (none, s) => .err (raised .desync) s
  | (some _, s) =>
    match waitFor .recessive s.cfg.rxTimeout s with
    | (none, s) => .err (raised .desync) { s with dur := s.durOf s.cfg.rxTimeout }
    | (some d, s) =>
      match classifyData s.cfg d with
      | none => .err (raised .desync) { s with dur := s.durOf d }
      | some b => .ok b { s with dur := s.durOf d, par := accumulate s.par b }

/-- k bits shifted into SHIFT, with BITCNT the bits still to go (R114, R23). -/
def rxBits : (k : Nat) → State → Res Unit
  | 0, s => .ok () s
  | k + 1, s =>
    (rxBit s).andThen fun b s =>
      rxBits k { s with shift := (s.shift <<< 1) ||| bitVal b, bitcnt := BitVec.ofNat 4 k }

/-- RX_FIELD as a step, for a legal width (R114). -/
def rxField (n : Nat) (s : State) : Res (BitVec 12) :=
  (rxBits n { s with shift := 0#12, bitcnt := BitVec.ofNat 4 n }).andThen fun _ s => .ok s.shift s

/-- RX_START as a step (R116). -/
def rxStart (s : State) : Res Unit :=
  match waitFor .dominant s.cfg.rxTimeout s with
  | (none, s) => .err (raised .desync) s
  | (some _, s) =>
    match waitFor .recessive (s.cfg.tStartMax + 1) s with
    | (none, s) => .err (raised .startLong) { s with dur := s.durOf (s.cfg.tStartMax + 1) }
    | (some d, s) =>
      match classifyStart s.cfg d with
      | .tooShort => .err (raised .startShort) { s with dur := s.durOf d }
      | .tooLong => .err (raised .startLong) { s with dur := s.durOf d }
      | .accepted => .ok () { s with dur := s.durOf d }

/-! ## Acknowledgment -/

/-- ACK_READ as a step, the sender's side of an ack slot (R117): whether the slot was acknowledged, and the state
after. -/
def ackRead (s : State) : Bool × State :=
  let s := setDrv false (waitTicks s.cfg.t1Driven (setDrv true s))
  match waitFor .recessive (s.cfg.rxTimeout - s.cfg.t1Driven) s with
  | (none, s) => (false, { s with dur := s.durOf (s.cfg.t1Driven + (s.cfg.rxTimeout - s.cfg.t1Driven)) })
  | (some e, s) =>
    let d := s.cfg.t1Driven + e
    (classifyAck s.cfg d, waitTicks (s.cfg.tBit - d) { s with dur := s.durOf d })

/-- ACK_SEND as a step, the receiver's side of an ack slot (R118). -/
def ackSend (s : State) : Res Unit :=
  match waitFor .dominant s.cfg.rxTimeout s with
  | (none, s) => .err (raised .desync) s
  | (some _, s) =>
    match waitFor .recessive s.cfg.rxTimeout (setDrv false (waitTicks s.cfg.t0Driven (setDrv true s))) with
    | (none, s) => .err (raised .desync) s
    | (some _, s) => .ok () s

/-! ## The operations at the host port -/

/-- TX_BIT (R110, R109). -/
def execTxBit (v : Bool) (s : State) : Host.Outcome State Fault Refusal := .next (report .ok (txBit v s))

/-- TX_START (R111, R109). -/
def execTxStart (s : State) : Host.Outcome State Fault Refusal := .next (report .ok (txStart s))

/-- TX_FIELD (R112, R109); an illegal width is BADOP (R97). -/
def execTxField (n : BitVec 4) (v : BitVec 12) (s : State) : Host.Outcome State Fault Refusal :=
  .next (if widthLegal n then report .ok (txField n.toNat v s) else report .badop s)

/-- RX_BIT (R113, R109). -/
def execRxBit (s : State) : Host.Outcome State Fault Refusal :=
  .next (finish (rxBit s) fun b s => { s with val := bitVal b })

/-- RX_FIELD (R114, R109); an illegal width is BADOP (R97). -/
def execRxField (n : BitVec 4) (s : State) : Host.Outcome State Fault Refusal :=
  .next (if widthLegal n then finish (rxField n.toNat s) fun v s => { s with val := v } else report .badop s)

/-- RX_START (R116, R109). -/
def execRxStart (s : State) : Host.Outcome State Fault Refusal := .next (finish (rxStart s) fun _ s => s)

/-- ACK_READ (R117, R109): VAL is 1 for ACK and 0 for NAK; a NAK is a result, not an error. -/
def execAckRead (s : State) : Host.Outcome State Fault Refusal :=
  .next (report .ok { (ackRead s).2 with val := bitVal (ackRead s).1 })

/-- ACK_SEND (R118, R109). -/
def execAckSend (s : State) : Host.Outcome State Fault Refusal := .next (finish (ackSend s) fun _ s => s)

end Sys2Proof.Machine
end

