-- ==== Sys2Proof/Machine/DeviceModel.lean ====
section
/-! DEFINITION. The Device State Model (43_device_state): APPLY_ACTION and TICK. -/

namespace Sys2Proof.Machine

/-- The effect of an action on DS (R182). -/
def applyEffect (e : Effect) (ds : DeviceState) : DeviceState :=
  match e with
  | .none => ds
  | .enable => { ds with aux := ds.aux ||| 0x01#8 }
  | .disable => { ds with aux := ds.aux &&& 0xFE#8 }
  | .play => { ds with mode := .play, status := .playing, min := 0x00#8, sec := 0x00#8 }
  | .stop => { ds with mode := .stop, status := .idle }
  | .ext k => Config.extEffect k ds

/-- APPLY_ACTION as a step of RUN_STEP too (R183); action 0 is NONE and changes nothing. -/
def applyActionOp (a : Byte) (s : State) : State :=
  if a.toNat ≤ s.cfg.nActions then
    match s.cfg.action a.toNat with
    | none => report .ok s
    | some e => report .ok { s with ds := applyEffect e.effect s.ds, respPending := s.respPending || e.pending }
  else report .badop s

/-- APPLY_ACTION (R183). -/
def execApplyAction (a : BitVec 8) (s : State) : Host.Outcome State Fault Refusal := .next (applyActionOp a s)

/-- TICK issued by the host (R185). -/
def execTick (s : State) : Host.Outcome State Fault Refusal := .next (report .ok (tickEffect s))

end Sys2Proof.Machine
end

