-- ==== Sys2Proof/Machine/Dispatcher.lean ====
section
/-! DEFINITION. The Command Table and Dispatcher (42_dispatch): DISPATCH. -/

namespace Sys2Proof.Machine

/-- The first bytes of a payload from index i on are the pattern (R172 (c)). -/
def patternAt (pay : Memory) : (i : Nat) → List Byte → Bool
  | _, [] => true
  | i, b :: bs => decide (pay.read i = b) && patternAt pay (i + 1) bs

/-- The mode of an entry agrees with a frame (R172 (a)). -/
def modeAgrees (c : Config) (m : AddrMode) (f : Frame) : Bool :=
  match m with
  | .unicast => f.unicast && decide (f.receiver = c.myAddr)
  | .broadcast => !f.unicast

/-- An entry of `CMD_TABLE` matches a frame (R172). -/
def entryMatches (c : Config) (f : Frame) (e : CmdEntry) : Bool :=
  modeAgrees c e.mode f && decide (e.pattern.length ≤ f.length.toNat) && patternAt f.pay 0 e.pattern

/-- The action of the first entry that matches, NONE (0) if none does (R171). -/
def firstMatch (c : Config) (f : Frame) : List CmdEntry → Byte
  | [] => 0#8
  | e :: es => if entryMatches c f e then e.action else firstMatch c f es

/-- The action DISPATCH yields for RXF (R171). -/
def dispatchAction (s : State) : Byte := if s.rxf.valid then firstMatch s.cfg s.rxf.frame s.cfg.cmdTable else 0#8

/-- DISPATCH as a step of RUN_STEP too (R171). -/
def dispatchOp (s : State) : State :=
  report .ok { s with act := dispatchAction s, val := (dispatchAction s).setWidth 12 }

/-- DISPATCH (R171). -/
def execDispatch (s : State) : Host.Outcome State Fault Refusal := .next (dispatchOp s)

end Sys2Proof.Machine
end

