-- ==== Sys2Proof/Machine/HostPort.lean ====
section
/-! DEFINITION. The operations of the host port itself: WR_TXF, RD_REG (R96), RESET (R260) and the reserved codes
(R97). -/

namespace Sys2Proof.Machine

/-- WR_TXF (R96). -/
def execWrTxf (sel : BitVec 6) (v : BitVec 12) (s : State) : Host.Outcome State Fault Refusal :=
  .next (match writeTxf s.txf sel v with
    | some f => report .ok { s with txf := f }
    | none => report .badop s)

/-- RD_REG (R96): RESULT is written after the register has been read; an unlisted selector gives BADOP and `VAL = 0`. -/
def execRdReg (sel : BitVec 8) (s : State) : Host.Outcome State Fault Refusal :=
  .next (match readReg s sel with
    | some v => report .ok { s with val := v }
    | none => report .badop { s with val := 0#12 })

/-- Every piece of the block's state at its reset value (R45, R260). The configuration, what lies outside the block and
the record of its outputs stay; no time passes. -/
def resetBlock (s : State) : State :=
  { setDrv false s with
    rxf := RxFrame.zero, txf := Frame.zero,
    shift := 0#12, bitcnt := 0#4, dur := 0, idx := 0#6, att := 0#2, wfr := RxFrame.zero,
    par := false, masked := false, tickLatch := false, respPending := false,
    timerBase := s.now, seq := .idle, result := ResultReg.okay, act := 0#8, val := 0#12, ds := resetDs,
    slots := [], qw := 0#8, qr := 0#8, ovfCount := 0#16, dropCount := 0#16 }

/-- RESET (R260). -/
def execReset (s : State) : Host.Outcome State Fault Refusal := .next (resetBlock s)

/-- A reserved OP code (R97): BADOP, no other effect. -/
def badOp (s : State) : State := report .badop s

/-- OP 0x1A (R97). -/
def execReserved1A (s : State) : Host.Outcome State Fault Refusal := .next (badOp s)
/-- OP 0x1B (R97). -/
def execReserved1B (s : State) : Host.Outcome State Fault Refusal := .next (badOp s)
/-- OP 0x1C (R97). -/
def execReserved1C (s : State) : Host.Outcome State Fault Refusal := .next (badOp s)
/-- OP 0x1D (R97). -/
def execReserved1D (s : State) : Host.Outcome State Fault Refusal := .next (badOp s)
/-- OP 0x1E (R97). -/
def execReserved1E (s : State) : Host.Outcome State Fault Refusal := .next (badOp s)
/-- OP 0x1F (R97). -/
def execReserved1F (s : State) : Host.Outcome State Fault Refusal := .next (badOp s)

end Sys2Proof.Machine
end

