-- ==== Sys2Proof/Machine/Transport.lean ====
section
/-! DEFINITION. The Frame Transport (41_frame_transport): MASK, UNMASK, BUS_FREE, SEND_FRAME and READ_FRAME. -/

namespace Sys2Proof.Machine

/-! ## The masked section and the bus-free check -/

/-- MASK (R140). -/
def execMask (s : State) : Host.Outcome State Fault Refusal :=
  .next (report .ok { s with val := bitVal s.masked, masked := true })

/-- UNMASK p (R141). -/
def execUnmask (p : Bool) (s : State) : Host.Outcome State Fault Refusal := .next (report .ok (restoreMask p s))

/-- The bus-free check (R145): free when the line is RECESSIVE at `T_BIT` consecutive samples. -/
def busFree (s : State) : Bool × State :=
  match waitFor .dominant s.cfg.tBit s with
  | (some _, s) => (false, s)
  | (none, s) => (true, s)

/-- BUS_FREE (R145). A busy bus is a result; it is also a DIAG event, since the operation ends with a code other than OK,
EMPTY and BADOP (R94). -/
def execBusFree (s : State) : Host.Outcome State Fault Refusal :=
  .next
    (let (free, s) := busFree s
     let s := { s with val := bitVal free }
     if free then report .ok s else emit (raised .busy) (report .busy s))

/-! ## Sending a frame -/

/-- The OP codes that SEQ shows while a frame operation runs (R28, R95). -/
def opSendFrame : BitVec 5 := 0x0C#5
def opReadFrame : BitVec 5 := 0x0D#5

/-- `SEQ = pos` inside SEND_FRAME (R146). -/
def sendAt (pos : FieldPos) (s : State) : State := { s with seq := .busy opSendFrame pos }

/-- `TxAck(f, i)` (R147): an ack slot of a unicast frame; a broadcast frame has none (R82). -/
def txAck (unicast : Bool) (f : FieldPos) (i : BitVec 6) (s : State) : Res Unit :=
  if unicast then
    let (a, s) := ackRead (sendAt f s)
    if a then .ok () s else .err { code := .nak, field := f, index := i } s
  else .ok () s

/-- From the start bit to the length group, with the ack slots of a unicast frame (R146). -/
def txHead (unicast : Bool) (snd rcv : Addr) (ctl : BitVec 4) (len : BitVec 8) (s : State) : Res Unit :=
  let s := txStart (sendAt .start s)
  let s := txBit (s.cfg.modeBit unicast) (sendAt .mode s)
  let s := txField 12 snd (sendAt .sender s)
  let s := txField 12 rcv (sendAt .receiver s)
  (txAck unicast .addrAck 0#6 s).andThen fun _ s =>
  let s := txField 4 (ctl.setWidth 12) (sendAt .control s)
  (txAck unicast .controlAck 0#6 s).andThen fun _ s =>
  let s := txField 8 (len.setWidth 12) (sendAt .length s)
  txAck unicast .lengthAck 0#6 s

/-- The data group of the payload byte i, with its ack slot in a unicast frame (R146). -/
def txData (unicast : Bool) (d : Byte) (i : BitVec 6) (s : State) : Res Unit :=
  let s := txField 8 (d.setWidth 12) (sendAt .data s)
  txAck unicast .dataAck i s

/-- The data groups `PAY[i] .. PAY[i+k-1]`, in order (R146, R67). -/
def txPayload (unicast : Bool) (pay : Memory) : (k i : Nat) → State → Res Unit
  | 0, _, s => .ok () s
  | k + 1, i, s =>
    (txData unicast (pay.read i) (BitVec.ofNat 6 i) { s with idx := BitVec.ofNat 6 i }).andThen fun _ s =>
      txPayload unicast pay k (i + 1) s

/-- A whole frame, after the bus-free check (R146). -/
def txFrame (f : Frame) (s : State) : Res Unit :=
  (txHead f.unicast f.sender f.receiver f.control (f.length.setWidth 8) s).andThen fun _ s =>
    txPayload f.unicast f.pay f.length.toNat 0 s

/-- SEND_FRAME as a step of the queue drainer too (R146). -/
def sendFrame (s : State) : State :=
  if lengthLegal s.txf.length.toNat then
    let prev := s.masked
    match busFree { s with masked := true } with
    | (false, s) => exitFrame prev (raised .busy) s
    | (true, s) =>
      match txFrame s.txf s with
      | .err e s => exitFrame prev e s
      | .ok _ s => exitFrame prev ResultReg.okay { s with seq := .finished opSendFrame }
  else emit (raised .badlen) (report .badlen s)

/-- SEND_FRAME (R146). -/
def execSendFrame (s : State) : Host.Outcome State Fault Refusal := .next (sendFrame s)

/-! ## Reading a frame -/

/-- `SEQ = pos` inside READ_FRAME (R150). -/
def readAt (pos : FieldPos) (s : State) : State := { s with seq := .busy opReadFrame pos }

/-- The fields of WF (R23, R150). -/
def setWork (f : Frame) (s : State) : State := { s with wfr := { s.wfr with frame := f } }

/-- `RxGroup(n, f, i)` (R148): a parity-covered field and its check. -/
def rxGroup (n : Nat) (f : FieldPos) (i : BitVec 6) (s : State) : Res (BitVec 12) :=
  ((rxField n { readAt f s with par := false }).atPos f i).andThen fun v s =>
    let pc := s.par
    ((rxBit s).atPos f i).andThen fun p s =>
      if p = pc then .ok v s else .err { code := .parity, field := f, index := i } s

/-- `RxAck(forme, f, i)` (R149): an ack slot of a unicast frame, acknowledged when the frame is for this device and
otherwise consumed; a broadcast frame has none (R82). -/
def rxAck (unicast forme : Bool) (f : FieldPos) (i : BitVec 6) (s : State) : Res Unit :=
  if unicast then
    if forme then (ackSend (readAt f s)).atPos f i
    else ((rxBit (readAt f s)).atPos f i).andThen fun _ s => .ok () s
  else .ok () s

/-- The data groups `i .. i+k-1` into `WF.PAY` (R150). -/
def rxPayload (unicast forme : Bool) : (k i : Nat) → State → Res Unit
  | 0, _, s => .ok () s
  | k + 1, i, s =>
    (rxGroup 8 .data (BitVec.ofNat 6 i) { s with idx := BitVec.ofNat 6 i }).andThen fun v s =>
    let s := setWork { s.wfr.frame with pay := s.wfr.frame.pay.write i (v.setWidth 8) } s
    (rxAck unicast forme .dataAck (BitVec.ofNat 6 i) s).andThen fun _ s =>
      rxPayload unicast forme k (i + 1) s

/-- The frame in progress is for this device: unicast to `MY_ADDR` (R152). -/
def forMe (s : State) : Bool := s.wfr.frame.unicast && decide (s.wfr.frame.receiver = s.cfg.myAddr)

/-- The fields of a frame, from its start bit to its last data group, assembled in WF (R150, R152, R153). The value is
the received length. -/
def rxFrame (s : State) : Res Nat :=
  ((rxStart (readAt .start s)).atPos .start 0#6).andThen fun _ s =>
  ((rxBit (readAt .mode s)).atPos .mode 0#6).andThen fun m s =>
  let s := setWork { s.wfr.frame with unicast := decide (m = s.cfg.modeBitUnicast) } s
  (rxGroup 12 .sender 0#6 s).andThen fun v s =>
  let s := setWork { s.wfr.frame with sender := v } s
  (rxGroup 12 .receiver 0#6 s).andThen fun v s =>
  let s := setWork { s.wfr.frame with receiver := v } s
  (rxAck s.wfr.frame.unicast (forMe s) .addrAck 0#6 s).andThen fun _ s =>
  (rxGroup 4 .control 0#6 s).andThen fun v s =>
  let s := setWork { s.wfr.frame with control := v.setWidth 4 } s
  (rxAck s.wfr.frame.unicast (forMe s) .controlAck 0#6 s).andThen fun _ s =>
  (rxGroup 8 .length 0#6 s).andThen fun v s =>
  if lengthLegal v.toNat then
    let s := setWork { s.wfr.frame with length := v.setWidth 6 } s
    (rxAck s.wfr.frame.unicast (forMe s) .lengthAck 0#6 s).andThen fun _ s =>
    (rxPayload s.wfr.frame.unicast (forMe s) v.toNat 0 s).andThen fun _ s => .ok v.toNat s
  else .err { code := .length, field := .length, index := 0#6 } s

/-- RXF after a good read: the fields of WF and its first `len` payload bytes, the bytes beyond kept; VALID set (R150,
R62). -/
def acceptFrame (rxf : RxFrame) (w : Frame) (len : Nat) : RxFrame :=
  { valid := true, frame := { w with pay := Memory.copyPrefix w.pay rxf.frame.pay len } }

/-- READ_FRAME as a step of RUN_STEP too (R150). -/
def readFrame (s : State) : State :=
  let prev := s.masked
  match rxFrame { s with masked := true, rxf.valid := false } with
  | .err e s => exitFrame prev e s
  | .ok len s =>
    exitFrame prev ResultReg.okay
      { s with rxf := acceptFrame s.rxf s.wfr.frame len, seq := .finished opReadFrame }

/-- READ_FRAME (R150). -/
def execReadFrame (s : State) : Host.Outcome State Fault Refusal := .next (readFrame s)

end Sys2Proof.Machine
end

