-- ==== Sys2Proof/Machine/Responder.lean ====
section
/-! DEFINITION. The Response Generator, the Pending Response Queue and the run step (44_response_queue): RESPOND,
BUILD_STATUS, Q_PUSH, Q_POP, Q_DRAIN, RUN_STEP and NOP. -/

namespace Sys2Proof.Machine

/-! ## The frame builder -/

/-- The byte of a patch source, from DS at the moment of building (R201). -/
def patchValue (c : Config) (ds : DeviceState) : PatchSource → Byte
  | .track => ds.track
  | .min => ds.min
  | .sec => ds.sec
  | .flags => c.flagsOf ds
  | .status => c.stateByte ds.status

/-- The patches of a template applied in list order; a later one of the same offset wins (R203). -/
def applyPatches (c : Config) (ds : DeviceState) : List (Nat × PatchSource) → Memory → Memory
  | [], m => m
  | (off, src) :: ps, m => applyPatches c ds ps (m.write off (patchValue c ds src))

/-- `BuildFrame(t)` (R203). The bytes beyond the template length are those of the slot the frame is built into (R62). -/
def buildFrame (c : Config) (ds : DeviceState) (t : Template) (slot : Memory) : Frame :=
  { unicast := decide (t.mode = .unicast),
    sender := c.myAddr,
    receiver := match t.mode with
      | .unicast => c.huAddr
      | .broadcast => c.bcastAddr,
    control := controlWrite,
    length := BitVec.ofNat 6 t.bytes.length,
    pay := applyPatches c ds t.patches (slot.writeBytes 0 t.bytes) }

/-! ## The queue -/

/-- The number of queued frames, `(QW − QR) mod 256` (R40). -/
def State.queued (s : State) : Nat := (s.qw - s.qr).toNat

/-- The slot of a free-running index (R40). -/
def State.slotOf (s : State) (i : Byte) : Nat := i.toNat % s.cfg.queueCap

/-- `Push(F)` (R206): true when the frame was queued. On overflow the newest frame is dropped and counted. -/
def push (f : Frame) (s : State) : Bool × State :=
  if s.queued = s.cfg.queueCap then
    (false, emit (raised .overflow) { s with ovfCount := saturatingSucc s.ovfCount })
  else (true, { s with slots := slotWrite s.slots (s.slotOf s.qw) f, qw := s.qw + 1#8 })

/-- The frame of a template built from the present DS into the next free slot, and pushed (R203, R206). -/
def pushTemplate (t : Nat) (s : State) : Bool × State :=
  match s.cfg.templates[t]? with
  | none => (true, s)
  | some tp => push (buildFrame s.cfg s.ds tp (slotRead s.slots (s.slotOf s.qw)).pay) s

/-- The templates of a list, in list order (R204): true when every frame was queued. -/
def pushAll : List Nat → State → Bool × State
  | [], s => (true, s)
  | t :: ts, s =>
    let (q, s) := pushTemplate t s
    let (qs, s) := pushAll ts s
    (q && qs, s)

/-- OK, or OVERFLOW when a frame was dropped. -/
def pushCode (queued : Bool) : ResCode := if queued then .ok else .overflow

/-- RESPOND as a step of RUN_STEP too (R204). -/
def respondOp (a : Byte) (s : State) : State :=
  if a.toNat ≤ s.cfg.nActions then
    match s.cfg.action a.toNat with
    | none => report .ok s
    | some e => report (pushCode (pushAll e.responses s).1) (pushAll e.responses s).2
  else report .badop s

/-- RESPOND (R204). -/
def execRespond (a : BitVec 8) (s : State) : Host.Outcome State Fault Refusal := .next (respondOp a s)

/-- BUILD_STATUS as a step of RUN_STEP too (R205). -/
def buildStatusOp (s : State) : State :=
  if s.respPending then
    let (q, s) := pushTemplate s.cfg.statusTemplate s
    report (pushCode q) { s with respPending := false }
  else report .ok s

/-- BUILD_STATUS (R205). -/
def execBuildStatus (s : State) : Host.Outcome State Fault Refusal := .next (buildStatusOp s)

/-- Q_PUSH (R206). -/
def execQPush (s : State) : Host.Outcome State Fault Refusal :=
  .next (report (pushCode (push s.txf s).1) (push s.txf s).2)

/-- The head frame taken into TXF (R207, R209). -/
def popHead (s : State) : State := { s with txf := slotRead s.slots (s.slotOf s.qr), qr := s.qr + 1#8 }

/-- Q_POP (R207). -/
def execQPop (s : State) : Host.Outcome State Fault Refusal :=
  .next (if s.qw = s.qr then report .empty s else report .ok (popHead s))

/-- The end of a drain whose last attempt failed (R209): counted, logged, RESULT kept; ATT is then unspecified (R23,
U7). -/
def dropFrame (s : State) : State :=
  let s := emit { s.result with code := .dropped } { s with dropCount := saturatingSucc s.dropCount }
  { s with att := Config.freeBits 2 3 s.draws, draws := s.draws + 1 }

/-- The send attempts of Q_DRAIN, at most k more (R209). -/
def attempts : (k : Nat) → State → State
  | 0, s => dropFrame s
  | k + 1, s =>
    let s := sendFrame { s with att := s.att + 1#2 }
    if s.result.code = .ok then s else attempts k s

/-- Q_DRAIN as a step of RUN_STEP too (R209). -/
def drainOp (s : State) : State :=
  if s.qw = s.qr then report .empty s else attempts maxAttempts { popHead s with att := 0#2 }

/-- Q_DRAIN (R209). -/
def execQDrain (s : State) : Host.Outcome State Fault Refusal := .next (drainOp s)

/-! ## The run step -/

/-- The receive branch of RUN_STEP (R215). -/
def receiveBranch (s : State) : State :=
  let s := readFrame s
  if s.result.code = .ok then
    let s := dispatchOp s
    respondOp s.act (applyActionOp s.act s)
  else s

/-- RUN_STEP (R215). -/
def runStepOp (s : State) : State :=
  if s.line s.now = .dominant then receiveBranch s
  else if s.respPending || decide (s.qw ≠ s.qr) then drainOp (buildStatusOp s)
  else report .ok s

/-- RUN_STEP (R215). -/
def execRunStep (s : State) : Host.Outcome State Fault Refusal := .next (runStepOp s)

/-- NOP (R216). -/
def execNop (s : State) : Host.Outcome State Fault Refusal := .next (report .ok s)

end Sys2Proof.Machine
end

