-- ==== Sys2Proof/Machine/Wire.lean ====
section
/-! DEFINITION. The rows of the wire (R80, R82, R83, R85): the core puts the symbol or the group of symbols on the line,
as the steps of SEND_FRAME do. A wire row ends like a stand-alone codec operation (R109): RESULT is OK, or the error
after the abort steps (DESIGN CHOICE, notes/assumptions/5). -/

namespace Sys2Proof.Machine

/-- A bit `1` on the wire (R80). -/
def execSymbol1 (s : State) : Host.Outcome State Fault Refusal := .next (report .ok (txBit true s))

/-- A bit `0` on the wire (R80). -/
def execSymbol0 (s : State) : Host.Outcome State Fault Refusal := .next (report .ok (txBit false s))

/-- A start bit on the wire (R80). -/
def execSymbolStart (s : State) : Host.Outcome State Fault Refusal := .next (report .ok (txStart s))

/-- An ack slot (R85): the sender starts it as a `1` and listens (R117); the addressed receiver stretches it (R118). -/
def execAckSlot (role : AckRole) (s : State) : Host.Outcome State Fault Refusal :=
  .next (match role with
    | .sender => report .ok { (ackRead s).2 with val := bitVal (ackRead s).1 }
    | .receiver => finish (ackSend s) fun _ s => s)

/-- The end of a group on the wire: as `finish`, and SEQ is IDLE (R28). -/
def finishWire (r : Res Unit) : State := seqIdle (finish r fun _ s => s)

/-- The head of a frame; a sender refuses to send an illegal length (R88, R146). -/
def headOp (unicast : Bool) (snd rcv : Addr) (ctl : BitVec 4) (len : BitVec 8) (s : State) : State :=
  if lengthLegal len.toNat then finishWire (txHead unicast snd rcv ctl len s)
  else emit (raised .badlen) (report .badlen s)

/-- The head of a unicast frame (R82): the sender stops after a slot that is not acknowledged (R146). -/
def execFrameHeadUnicast (snd rcv : Addr) (ctl : BitVec 4) (len : BitVec 8) (s : State) :
    Host.Outcome State Fault Refusal :=
  .next (headOp true snd rcv ctl len s)

/-- The head of a broadcast frame (R82). -/
def execFrameHeadBroadcast (snd rcv : Addr) (ctl : BitVec 4) (len : BitVec 8) (s : State) :
    Host.Outcome State Fault Refusal :=
  .next (headOp false snd rcv ctl len s)

/-- A data group of a unicast frame (R83). A group on its own is no part of a payload: its ack slot is the first one, so a
missing acknowledgment is reported at index 0, and IDX is not read (R23; notes/assumptions/5). -/
def execDataGroupUnicast (d : BitVec 8) (s : State) : Host.Outcome State Fault Refusal :=
  .next (finishWire (txData true d 0#6 s))

/-- A data group of a broadcast frame (R83). -/
def execDataGroupBroadcast (d : BitVec 8) (s : State) : Host.Outcome State Fault Refusal :=
  .next (finishWire (txData false d 0#6 s))

end Sys2Proof.Machine
end

