-- ==== Sys2Proof/Machine/Dispatch.lean ====
section
/-! DEFINITION. The dispatch: one arm per row of spec/opcode_table.json. -/

namespace Sys2Proof.Machine

def exec (i : Instr) (s : State) : Host.Outcome State Fault Refusal :=
  match i with
  | .nop => Sys2Proof.Machine.execNop s
  | .txBit v => Sys2Proof.Machine.execTxBit v s
  | .txStart => Sys2Proof.Machine.execTxStart s
  | .txField n v => Sys2Proof.Machine.execTxField n v s
  | .rxBit => Sys2Proof.Machine.execRxBit s
  | .rxField n => Sys2Proof.Machine.execRxField n s
  | .rxStart => Sys2Proof.Machine.execRxStart s
  | .ackRead => Sys2Proof.Machine.execAckRead s
  | .ackSend => Sys2Proof.Machine.execAckSend s
  | .mask => Sys2Proof.Machine.execMask s
  | .unmask p => Sys2Proof.Machine.execUnmask p s
  | .busFree => Sys2Proof.Machine.execBusFree s
  | .sendFrame => Sys2Proof.Machine.execSendFrame s
  | .readFrame => Sys2Proof.Machine.execReadFrame s
  | .dispatch => Sys2Proof.Machine.execDispatch s
  | .applyAction a => Sys2Proof.Machine.execApplyAction a s
  | .tick => Sys2Proof.Machine.execTick s
  | .respond a => Sys2Proof.Machine.execRespond a s
  | .buildStatus => Sys2Proof.Machine.execBuildStatus s
  | .qPush => Sys2Proof.Machine.execQPush s
  | .qPop => Sys2Proof.Machine.execQPop s
  | .qDrain => Sys2Proof.Machine.execQDrain s
  | .runStep => Sys2Proof.Machine.execRunStep s
  | .wrTxf sel v => Sys2Proof.Machine.execWrTxf sel v s
  | .rdReg sel => Sys2Proof.Machine.execRdReg sel s
  | .reset => Sys2Proof.Machine.execReset s
  | .reserved1A => Sys2Proof.Machine.execReserved1A s
  | .reserved1B => Sys2Proof.Machine.execReserved1B s
  | .reserved1C => Sys2Proof.Machine.execReserved1C s
  | .reserved1D => Sys2Proof.Machine.execReserved1D s
  | .reserved1E => Sys2Proof.Machine.execReserved1E s
  | .reserved1F => Sys2Proof.Machine.execReserved1F s
  | .symbol1 => Sys2Proof.Machine.execSymbol1 s
  | .symbol0 => Sys2Proof.Machine.execSymbol0 s
  | .symbolStart => Sys2Proof.Machine.execSymbolStart s
  | .ackSlot role => Sys2Proof.Machine.execAckSlot role s
  | .frameHeadUnicast snd rcv ctl len => Sys2Proof.Machine.execFrameHeadUnicast snd rcv ctl len s
  | .frameHeadBroadcast snd rcv ctl len => Sys2Proof.Machine.execFrameHeadBroadcast snd rcv ctl len s
  | .dataGroupUnicast d => Sys2Proof.Machine.execDataGroupUnicast d s
  | .dataGroupBroadcast d => Sys2Proof.Machine.execDataGroupBroadcast d s

end Sys2Proof.Machine
end

