-- ==== Sys2Proof/Machine/Step.lean ====
section
/-! DEFINITION. One step of the machine: one whole operation, or one served 1 Hz arrival, or idling (R15, R240). -/

namespace Sys2Proof.Machine

/-- One step. A configuration that breaks R8 is refused (U8). -/
def step (s : State) : Host.Outcome State Fault Refusal :=
  if s.cfg.wf then
    match nextTodo s with
    | .serve s => .next (deliverTick s)
    | .wait n s => .next (waitTicks n s)
    | .run w s => exec (decodePort w) s
  else .refused .illFormedConfig

/-- The instruction whose bits are w placed at the host port, as spec/opcode_table.json numbers its bits. -/
def State.withFetchWord (s : State) (nbits w : Nat) : State := placeOp (PortWord.ofNat (w % 2 ^ nbits)) s

end Sys2Proof.Machine
end

