-- ==== Sys2Proof/Safety.lean ====
section
/-! DEFINITION. What counts as a good state between operations (`State.Inv`), and the words in which statements speak of
the line: the pulses of a list of symbols (R80), the symbols of a frame (R82, R83), the time of a symbol, an acknowledge
slot that some other agent stretches (R85), and a frame of another agent as a receiver hears it (R85, R120). -/

namespace Sys2Proof.Machine

/-! ## The line in the words of R80 to R86 -/

/-- The driven phase of a symbol (R80). -/
def symbolDriven (c : Config) : Symbol → Nat
  | .start => c.tStartDriven
  | .one => c.t1Driven
  | .zero => c.t0Driven

/-- The driven and the floating phase of a symbol together (R80). -/
def symbolTicks (c : Config) : Symbol → Nat
  | .start => c.tStartDriven + c.tStartFloat
  | .one => c.tBit
  | .zero => c.tBit

/-- The driven stretches of symbols sent one after another from tick t on, with nominal timing (R80). -/
def waveOf (c : Config) : (t : Nat) → List Symbol → List (Nat × Nat)
  | _, [] => []
  | t, x :: xs => (t, symbolDriven c x) :: waveOf c (t + symbolTicks c x) xs

/-- The ticks that symbols take. -/
def waveTicks (c : Config) (syms : List Symbol) : Nat := (syms.map (symbolTicks c)).sum

/-- The symbols of a frame as its sender starts them (R82, R83): in an ack slot the pulse of a `1`. -/
def frameSymbols (c : Config) (f : Frame) : List Symbol :=
  headSymbols c f.unicast f.sender f.receiver f.control (f.length.setWidth 8) ++
    (f.pay.bytes f.length.toNat).flatMap (groupSymbols f.unicast)

/-- The first tick of symbol k of a frame, `k ≥ 1`, whose start bit begins at tick t0 (R83). -/
def symbolTime (c : Config) (t0 k : Nat) : Nat := t0 + (c.tStartDriven + c.tStartFloat) + (k - 1) * c.tBit

/-- A symbol of a frame: its number (R83), the position it belongs to (R93), and the data index. -/
abbrev Place := Nat × FieldPos × BitVec 6

/-- The places of the data groups: the first symbol number, and the symbols from one group to the next (R83). -/
def dataPlaces (first stride : Nat) (pos : FieldPos) (len : Nat) : List Place :=
  (List.range len).map (fun i => (first + stride * i, pos, BitVec.ofNat 6 i))

/-- The ack slots of the head of a unicast frame (R83). -/
def headAckSlots : List Place := [(28, .addrAck, 0#6), (34, .controlAck, 0#6), (44, .lengthAck, 0#6)]

/-- The ack slots of a unicast frame with len data bytes, in wire order (R83). -/
def ackSlots (len : Nat) : List Place := headAckSlots ++ dataPlaces 54 10 .dataAck len

/-- The parity bits of the head of a frame, each at the position of the field that it covers (R83, R93). -/
def headParityBits (unicast : Bool) : List Place :=
  if unicast then [(14, .sender, 0#6), (27, .receiver, 0#6), (33, .control, 0#6), (43, .length, 0#6)]
  else [(14, .sender, 0#6), (27, .receiver, 0#6), (32, .control, 0#6), (41, .length, 0#6)]

/-- The parity bits of a frame with len data bytes, in wire order (R83). -/
def parityBits (unicast : Bool) (len : Nat) : List Place :=
  headParityBits unicast ++ if unicast then dataPlaces 53 10 .data len else dataPlaces 50 9 .data len

/-- The other bit value. -/
def flipSymbol : Symbol → Symbol
  | .start => .start
  | .one => .zero
  | .zero => .one

/-- No other agent drives at the ticks `a ≤ u < b`. -/
def QuietFrom (env : List (Nat × Nat)) (a b : Nat) : Prop := ∀ u, a ≤ u → u < b → envDrives env u = false

/-- Some other agent drives at every tick `a ≤ u < b`. -/
def DrivenFrom (env : List (Nat × Nat)) (a b : Nat) : Prop := ∀ u, a ≤ u → u < b → envDrives env u = true

/-- The slot that begins at tick t is acknowledged by a pulse of d ticks: some other agent holds the line past the
threshold and for at most `T_MAXBIT` ticks in all (R85, R117). -/
def AckedFor (c : Config) (env : List (Nat × Nat)) (t d : Nat) : Prop :=
  c.tThreshold ≤ d ∧ d ≤ c.tMaxBit ∧ DrivenFrom env (t + c.t1Driven) (t + d) ∧ envDrives env (t + d) = false

/-- The slot that begins at tick t is not acknowledged, after d ticks: the line is released before the threshold, or
after `T_MAXBIT`, or not within `RX_TIMEOUT` (R85, R117). -/
def UnackedFor (c : Config) (env : List (Nat × Nat)) (t d : Nat) : Prop :=
  c.t1Driven ≤ d ∧ (d < c.tThreshold ∨ c.tMaxBit < d) ∧ DrivenFrom env (t + c.t1Driven) (t + d) ∧
    ((d < c.rxTimeout ∧ envDrives env (t + d) = false) ∨ d = c.rxTimeout)

/-! ### Slots held beyond the bit period (R117)

A slot that another agent holds for d ticks, `T_BIT < d`, delays what follows by `d − T_BIT`. `late k` is that delay
after symbol k of the frame. -/

/-- The driven stretches of symbols sent from tick t on, each with the delay after it. -/
def heldWave (c : Config) : (t : Nat) → List (Symbol × Nat) → List (Nat × Nat)
  | _, [] => []
  | t, (x, o) :: xs => (t, symbolDriven c x) :: heldWave c (t + symbolTicks c x + o) xs

/-- Symbols, numbered from 0, with the delays after them. -/
def held (late : Nat → Nat) (syms : List Symbol) : List (Symbol × Nat) :=
  syms.zipIdx.map (fun p => (p.1, late p.2))

/-- The first tick of symbol k of a frame, `k ≥ 1`, after the delays of the symbols before it. -/
def heldTime (c : Config) (late : Nat → Nat) (t0 k : Nat) : Nat :=
  symbolTime c t0 k + ((List.range k).map late).sum

/-- Every one of the slots is acknowledged, and holds up the frame as `late` says; nothing else does. -/
def SlotsHeld (c : Config) (env : List (Nat × Nat)) (t0 : Nat) (slots : List Place) (late : Nat → Nat) : Prop :=
  (∀ p ∈ slots, ∃ d, AckedFor c env (heldTime c late t0 p.1) d ∧ late p.1 = d - c.tBit) ∧
    ∀ k, (∀ p ∈ slots, p.1 ≠ k) → late k = 0

/-! ### A frame of another agent as a receiver hears it (R85, R120)

Each pulse is a pair (ticks driven, ticks until the next pulse begins). A symbol has its nominal phases; what an ack slot
looks like depends on who answers in it. -/

/-- The driven stretches of pulses that come one after another from tick t on. -/
def pulseWave : (t : Nat) → List (Nat × Nat) → List (Nat × Nat)
  | _, [] => []
  | t, (d, n) :: ps => (t, d) :: pulseWave (t + n) ps

/-- The first tick of pulse k, the first pulse beginning at tick t0. -/
def pulseStart (t0 : Nat) (ps : List (Nat × Nat)) (k : Nat) : Nat := t0 + ((ps.take k).map Prod.snd).sum

/-- The symbol numbers of the ack slots of a frame with len data bytes; a broadcast frame has none (R82, R83). -/
def slotNumbers (unicast : Bool) (len : Nat) : List Nat := if unicast then (ackSlots len).map Prod.fst else []

/-- The pulses of symbols, numbered from 0: the one that `slot` gives in an ack slot, else the nominal one (R80). -/
def heardPulses (c : Config) (slots : List Nat) (slot : Nat → Nat × Nat) (syms : List Symbol) : List (Nat × Nat) :=
  syms.zipIdx.map (fun p => if slots.contains p.2 then slot p.2 else (symbolDriven c p.1, symbolTicks c p.1))

/-- The position and data index of each symbol of a frame with len data bytes, in wire order (R83, R93). -/
def symbolPlaces (unicast : Bool) (len : Nat) : List (FieldPos × BitVec 6) :=
  let slot (p : FieldPos) (i : BitVec 6) : List (FieldPos × BitVec 6) := if unicast then [(p, i)] else []
  [(.start, 0#6), (.mode, 0#6)] ++ List.replicate 13 (.sender, 0#6) ++ List.replicate 13 (.receiver, 0#6) ++
    slot .addrAck 0#6 ++ List.replicate 5 (.control, 0#6) ++ slot .controlAck 0#6 ++
    List.replicate 9 (.length, 0#6) ++ slot .lengthAck 0#6 ++
    (List.range len).flatMap (fun i =>
      List.replicate 9 (.data, BitVec.ofNat 6 i) ++ slot .dataAck (BitVec.ofNat 6 i))

/-- A read that is entered at tick `now` takes the pulse of d ticks that begins at tick t0 for a start bit: it begins
within `RX_TIMEOUT` or has begun, and what the core sees of it is within the tolerance (R81, R116, R274). -/
def FindsStart (c : Config) (now t0 d : Nat) : Prop :=
  t0 < now + c.rxTimeout ∧ max now t0 + c.tStartMin ≤ t0 + d ∧ t0 + d ≤ max now t0 + c.tStartMax

/-- What a sender puts on the line: the head of a frame, whose length field may be any byte, and the first of its data
bytes (R82, R83). -/
structure SentFrame where
  unicast : Bool
  sender : Addr
  receiver : Addr
  control : BitVec 4
  length : Byte
  data : List Byte
  deriving DecidableEq, Repr

/-- A frame sent whole. -/
def Frame.sent (f : Frame) : SentFrame :=
  { unicast := f.unicast, sender := f.sender, receiver := f.receiver, control := f.control,
    length := f.length.setWidth 8, data := f.pay.bytes f.length.toNat }

/-- The symbols as the sender starts them (R82, R83). -/
def SentFrame.symbols (w : SentFrame) (c : Config) : List Symbol :=
  headSymbols c w.unicast w.sender w.receiver w.control w.length ++ w.data.flatMap (groupSymbols w.unicast)

/-- The symbol numbers of the ack slots (R83). -/
def SentFrame.slots (w : SentFrame) : List Nat := slotNumbers w.unicast w.data.length

/-- The slots in which the core answers: those of a unicast frame to `MY_ADDR` (R149, R152). -/
def SentFrame.answered (w : SentFrame) (c : Config) : List Nat :=
  if w.unicast && decide (w.receiver = c.myAddr) then w.slots else []

/-- No more data bytes than the length field announces, and none after an illegal length (R153). -/
def SentFrame.Announced (w : SentFrame) : Prop :=
  w.data.length ≤ if lengthLegal w.length.toNat then w.length.toNat else 0

/-- How long the line is DOMINANT for pulse k, which others drive for d ticks: in a slot that the core answers, at least
`T_0_DRIVEN` ticks (R118). -/
def SentFrame.heldFor (w : SentFrame) (c : Config) (k d : Nat) : Nat :=
  if (w.answered c).contains k then max d c.t0Driven else d

/-- The first tick at which the line is RECESSIVE again after pulse k, the first pulse beginning at tick t0. -/
def SentFrame.pulseEnd (w : SentFrame) (c : Config) (t0 : Nat) (ps : List (Nat × Nat)) (k : Nat) : Nat :=
  pulseStart t0 ps k + w.heldFor c k (ps.getD k (0, 0)).1

/-- The core drives at tick u for an acknowledgment in one of the slots: `T_0_DRIVEN` ticks from the first tick of the
pulse in it (R118). -/
def acksAt (c : Config) (t0 : Nat) (ps : List (Nat × Nat)) (slots : List Nat) (u : Nat) : Bool :=
  slots.any (fun k => decide (pulseStart t0 ps k ≤ u) && decide (u < pulseStart t0 ps k + c.t0Driven))

/-- A pulse of d ticks that a receiver reads as the bit of the symbol (R81, R113); a start bit is measured by
`FindsStart`. -/
abbrev ReadsAs (c : Config) (x : Symbol) (d : Nat) : Prop :=
  (x = .one → d < c.tThreshold) ∧ (x = .zero → c.tThreshold ≤ d ∧ d ≤ c.tMaxBit)

/-- Pulse k of a frame, for symbol x, as a receiver may meet it (R113, R118, R149): a pulse of the class of the symbol; in
a slot that the core answers, any pulse that is over within `RX_TIMEOUT` of the core's own; in a slot of a frame to another
device, any pulse that a bit can have, answered or not. A pause follows that a receiver waits out. -/
abbrev SentFrame.PulseFits (w : SentFrame) (c : Config) (k : Nat) (x : Symbol) (p : Nat × Nat) : Prop :=
  1 ≤ p.1 ∧ w.heldFor c k p.1 < p.2 ∧ p.2 < w.heldFor c k p.1 + c.rxTimeout ∧
    if (w.answered c).contains k then p.1 < c.t0Driven + c.rxTimeout
    else if w.slots.contains k then p.1 ≤ c.tMaxBit
    else ReadsAs c x p.1

/-- Pulses for symbols, numbered from 0. -/
abbrev SentFrame.Fits (w : SentFrame) (c : Config) (syms : List Symbol) (ps : List (Nat × Nat)) : Prop :=
  ps.length = syms.length ∧ ∀ q ∈ (syms.zip ps).zipIdx, w.PulseFits c q.2 q.1.1 q.1.2

/-- A read that is entered in s hears pulses 0 to k of a frame, the first one beginning at tick t0: up to the tick at which
pulse k is over, the other agents drive as the pulses `ps` say. Where the core drives in a slot, after the first tick of
it, they may do anything; and so they may after pulse k. -/
structure SentFrame.Heard (w : SentFrame) (s : State) (syms : List Symbol) (t0 : Nat) (ps : List (Nat × Nat)) (k : Nat) :
    Prop where
  fits : w.Fits s.cfg syms ps
  start : ∀ p, ps.head? = some p → FindsStart s.cfg s.now t0 p.1
  line : ∀ u, s.now ≤ u → u ≤ w.pulseEnd s.cfg t0 ps k →
    (∀ j ∈ w.answered s.cfg, ¬ (pulseStart t0 ps j < u ∧ u < pulseStart t0 ps j + s.cfg.t0Driven)) →
    envDrives s.env u = envDrives (pulseWave t0 ps) u

/-- A pulse on the line as a receiver meets it that enters at tick t and does not drive: RECESSIVE for g ticks, then
DOMINANT for d ticks, then RECESSIVE (R120). -/
def PulseAt (env : List (Nat × Nat)) (t g d : Nat) : Prop :=
  QuietFrom env t (t + g) ∧ DrivenFrom env (t + g) (t + g + d) ∧ envDrives env (t + g + d) = false

/-- Pulses one after another, each as a pair (gap, driven duration), from tick t on (R120). -/
def PulseTrain (env : List (Nat × Nat)) : (t : Nat) → List (Nat × Nat) → Prop
  | _, [] => True
  | t, (g, d) :: ps => PulseAt env t g d ∧ PulseTrain env (t + g + d) ps

/-- The ticks from the start of the first gap to the end of the last driven phase. -/
def trainTicks (ps : List (Nat × Nat)) : Nat := (ps.map (fun p => p.1 + p.2)).sum

/-- The frames in the queue, the head first (R40). -/
def queueContents (s : State) : List Frame :=
  (List.range s.queued).map (fun k => slotRead s.slots (s.slotOf (s.qr + BitVec.ofNat 8 k)))

/-! ## Good states -/

/-- The positions and indices an error can carry (R93, R230). START_SHORT and START_LONG have START, and LENGTH has
LENGTH, as R150 and R230 say; a stand-alone operation has NONE (R109). DEDUCED: log 10. -/
def ResultReg.shaped (r : ResultReg) : Bool :=
  (match r.code with
    | .nak => [FieldPos.addrAck, .controlAck, .lengthAck, .dataAck].contains r.field
    | .parity => [FieldPos.sender, .receiver, .control, .length, .data].contains r.field
    | .desync => true
    | .startShort | .startLong => [FieldPos.none, .start].contains r.field
    | .length => decide (r.field = .length)
    | .dropped => false
    | .ok | .busy | .badlen | .badop | .empty | .overflow => decide (r.field = .none)) &&
  (decide (r.field = .data) || decide (r.field = .dataAck) || decide (r.index = 0#6))

/-- What holds between operations in every state a run reaches. -/
structure State.Inv (s : State) : Prop where
  /-- "`DRV = 0` whenever no bus operation is in progress" (R25). -/
  drvReleased : s.drv = false
  /-- SEQ is IDLE between operations (R28). -/
  seqAtRest : s.seq = .idle
  /-- The queue never holds more than its capacity (R40, R208). -/
  queueBounded : s.queued ≤ s.cfg.queueCap
  /-- A tick is latched only while the section is masked (R30, R241). -/
  latchMasked : s.tickLatch = true → s.masked = true
  /-- DUR has `W_TIMER` bits (R23). -/
  durWidth : s.dur < 2 ^ s.cfg.wTimer
  /-- RXF.LENGTH is `1..=32` whenever VALID = 1 (R21). -/
  rxfLength : s.rxf.valid = true → lengthLegal s.rxf.frame.length.toNat = true
  /-- The payload buffers are in canonical form (R60, R61). -/
  rxfMemory : s.rxf.frame.pay.wf = true
  txfMemory : s.txf.pay.wf = true
  wfrMemory : s.wfr.frame.pay.wf = true
  /-- The queue slots are in canonical form, at slot numbers below the capacity (R40, R60). -/
  slotsCanonical : cellsWf Frame.zero s.cfg.queueCap s.slots = true
  slotMemories : ∀ p ∈ s.slots, p.2.pay.wf = true
  /-- RESULT carries a position that its code allows, and never DROPPED (R92, R93, R230). -/
  resultShaped : s.result.shaped = true
  /-- The record of DRV agrees with DRV: no assignment lies ahead, and the last one gave its value (R11). -/
  logPast : ∀ p ∈ s.drvLog, p.1 ≤ s.now
  logAgrees : drvAt s.drvLog s.now = s.drv
  /-- TIMER started at or before now (R26). -/
  timerStarted : s.timerBase ≤ s.now

/-- A step that the machine can take: the configuration is one the model accepts (R8). -/
def Safe (s : State) : Prop := s.cfg.wf = true ∧ s.Inv

/-! ## The conditions and results of the rules, in their own words -/

/-- A configuration that R8 calls well-formed, (a) to (h) in order. The addresses are below `2^12` by their type. -/
structure MeetsR8 (c : Config) : Prop where
  dataPulses : 0 < c.t1Driven ∧ c.t1Driven < c.tThreshold ∧ c.tThreshold < c.t0Driven
  dataFloat : c.t0Driven < c.tBit ∧ c.t1Driven < c.tBit
  maxBit : c.tBit ≤ c.tMaxBit ∧ c.t0Driven ≤ c.tMaxBit
  startPulse : c.tMaxBit < c.tStartMin ∧ c.tStartMin ≤ c.tStartDriven ∧ c.tStartDriven ≤ c.tStartMax
  startFloat : 1 ≤ c.tStartFloat ∧ c.tStartFloat < c.tBit
  timerWidth : max c.tStartMax (2 * c.tMaxBit) + 1 < 2 ^ c.wTimer
  queue : (∃ k, c.queueCap = 2 ^ k) ∧ c.queueCap ≤ 128
  tables : (∀ e ∈ c.cmdTable, 1 ≤ e.pattern.length ∧ e.pattern.length ≤ 32) ∧
    ∀ t ∈ c.templates, (1 ≤ t.bytes.length ∧ t.bytes.length ≤ 32) ∧ ∀ p ∈ t.patches, p.1 < t.bytes.length

/-- An entry of `CMD_TABLE` matches a frame: R172 (a), (b), (c). -/
def Matches (c : Config) (f : Frame) (e : CmdEntry) : Prop :=
  ((e.mode = .unicast ∧ f.unicast = true ∧ f.receiver = c.myAddr) ∨ (e.mode = .broadcast ∧ f.unicast = false)) ∧
    e.pattern.length ≤ f.length.toNat ∧ ∀ k (h : k < e.pattern.length), f.pay.read k = e.pattern[k]

/-- The byte is the value of the patch source, source by source (R201). -/
def SourceByte (c : Config) (ds : DeviceState) (src : PatchSource) (b : Byte) : Prop :=
  (src = .track → b = ds.track) ∧ (src = .min → b = ds.min) ∧ (src = .sec → b = ds.sec) ∧
    (src = .status → b = c.stateByte ds.status) ∧ (src = .flags → b = c.flagsOf ds)

/-- The frame is what BuildFrame makes of a template and DS (R203): its fields, and each of its payload bytes, which is
the last patch of that offset in the list, or the byte of the template where nothing patches it. -/
structure BuiltFrom (c : Config) (ds : DeviceState) (t : Template) (f : Frame) : Prop where
  unicast : f.unicast = true ↔ t.mode = .unicast
  sender : f.sender = c.myAddr
  receiver : f.receiver = if t.mode = .unicast then c.huAddr else c.bcastAddr
  control : f.control = 0xF#4
  length : f.length.toNat = t.bytes.length
  plain : ∀ k (h : k < t.bytes.length), (∀ p ∈ t.patches, p.1 ≠ k) → f.pay.read k = t.bytes[k]
  patched : ∀ pre k src post, t.patches = pre ++ (k, src) :: post → (∀ p ∈ post, p.1 ≠ k) →
    SourceByte c ds src (f.pay.read k)

/-- A host operation that ended at tick n with an error: DRV released and recorded, RESULT and one DIAG event (R109,
R246). DUR and the record of DRV are as given; the scratch registers SHIFT, BITCNT, IDX and WF hold free values (U7);
nothing else of s has changed. -/
def EndsInError (s t : State) (r : ResultReg) (n dur : Nat) (log : List (Nat × Bool)) : Prop :=
  t = { s with drv := false, drvLog := (n, false) :: log, now := n, dur := dur, result := r, diag := s.diag ++ [r],
               shift := t.shift, bitcnt := t.bitcnt, idx := t.idx, wfr := t.wfr, draws := t.draws }

/-- What SEND_FRAME and READ_FRAME may write beside RXF (R146, R150): the scratch registers, PAR, the line, time, RESULT,
DIAG, and through a latched tick DS and RESP_PENDING; SEQ is IDLE at the exit (R246). The arrivals that came while it ran
are no longer to come, all others are (R241; notes/assumptions/19). Nothing else of s has changed; that VAL has not is
notes/assumptions/6. -/
def FrameOpFrame (s t : State) : Prop :=
  t = { s with rxf := t.rxf, seq := .idle, shift := t.shift, bitcnt := t.bitcnt, dur := t.dur, idx := t.idx, wfr := t.wfr,
               par := t.par, drv := t.drv, result := t.result, now := t.now, diag := t.diag, drvLog := t.drvLog,
               draws := t.draws, tickLatch := t.tickLatch, ds := t.ds, respPending := t.respPending,
               arrivals := s.arrivals.filter (fun a => decide (t.now ≤ a)) }

/-- The bound of READ_FRAME for a payload of L bytes (R280). -/
def readBound (c : Config) (len : Nat) : Nat :=
  c.rxTimeout + c.tStartMax + (41 + 9 * len) * (2 * c.rxTimeout - 1) + (3 + len) * (2 * c.rxTimeout - 1 + c.t0Driven)

/-- The bound of SEND_FRAME for a payload of L bytes (R280). -/
def sendBound (c : Config) (unicast : Bool) (len : Nat) : Nat :=
  c.tBit + (c.tStartDriven + c.tStartFloat) + (41 + 9 * len) * c.tBit + (if unicast then (3 + len) * c.rxTimeout else 0)

/-- The longest SEND_FRAME attempts of one Q_DRAIN (R280). -/
def drainBound (c : Config) : Nat := maxAttempts * sendBound c true 32

/-- A row of the wire, not an operation of the host port (R80, R82, R83, R85). -/
def onWire : Instr → Bool
  | .symbol1 | .symbol0 | .symbolStart | .ackSlot _ | .frameHeadUnicast _ _ _ _ | .frameHeadBroadcast _ _ _ _
  | .dataGroupUnicast _ | .dataGroupBroadcast _ => true
  | _ => false

/-- A row of the wire that sends a head or a data group, and so runs through the positions of SEQ (R28, R82, R83). -/
def onWireGroup : Instr → Bool
  | .frameHeadUnicast _ _ _ _ | .frameHeadBroadcast _ _ _ _ | .dataGroupUnicast _ | .dataGroupBroadcast _ => true
  | _ => false

/-- Such a row with ack slots, in which a duration is measured and an acknowledgment can be missing (R82, R83, R117). -/
def groupHasSlots : Instr → Bool
  | .frameHeadUnicast _ _ _ _ | .dataGroupUnicast _ => true
  | _ => false

/-- The table of R280: the ticks an operation takes at most; 0 for the operations that do not touch the bus (R14). -/
def durationBound (s : State) : Instr → Nat
  | .txBit _ => s.cfg.tBit
  | .txStart => s.cfg.tStartDriven + s.cfg.tStartFloat
  | .txField n _ => (n.toNat + 1) * s.cfg.tBit
  | .rxBit => 2 * s.cfg.rxTimeout - 1
  | .rxField n => n.toNat * (2 * s.cfg.rxTimeout - 1)
  | .rxStart => s.cfg.rxTimeout + s.cfg.tStartMax
  | .ackRead => s.cfg.rxTimeout
  | .ackSend => 2 * s.cfg.rxTimeout - 1 + s.cfg.t0Driven
  | .busFree => s.cfg.tBit
  | .sendFrame => sendBound s.cfg s.txf.unicast s.txf.length.toNat
  | .readFrame => readBound s.cfg 32
  | .qDrain => drainBound s.cfg
  | .runStep => max (readBound s.cfg 32) (drainBound s.cfg)
  | _ => 0

end Sys2Proof.Machine
end

