-- ==== Sys2Proof/Certificates/Slice0/Obligations.lean ====
section
/-! DEFINITION. The statements for the provers. Each names the rule of spec/ that it formalises; where a clause is the
model's own choice, the docstring names the log entry. -/

open Sys2Proof Sys2Proof.Machine

/-! ## Steps, configuration, reset -/

/-- R16, R95: with no arrival due, a step runs the operation that the port word at the head of the host's operations
encodes, and takes the word off the list. -/
def Obligations.StepRunsTheDecodedOperation : Prop :=
  ∀ (s : State) (w : PortWord) (rest : List Input),
    s.cfg.wf = true → (∀ t ∈ s.arrivals, s.now < t) → s.inputs = .op w :: rest →
      step s = exec (decodePort w) { s with inputs := rest }

/-- R240, R241, R244: an arrival that has come is taken before the host's next operation. While MASKED is 1 it sets
TICK_LATCH and nothing else; otherwise it has the effect of TICK and leaves RESULT alone. The order in which the model
takes what waits is notes/assumptions/3. -/
def Obligations.ArrivalsAreServedBetweenOperations : Prop :=
  ∀ s r : State, s.cfg.wf = true →
    ((∃ pre t post, s.arrivals = pre ++ t :: post ∧ (∀ u ∈ pre, s.now < u) ∧ t ≤ s.now ∧
        r = { s with arrivals := pre ++ post }) ∨
      ((∀ t ∈ s.arrivals, s.now < t) ∧ ∃ rest, s.inputs = .tick :: rest ∧ r = { s with inputs := rest })) →
      (s.masked = true → step s = .next { r with tickLatch := true }) ∧
      (s.masked = false → ∃ u, exec .tick r = .next u ∧ step s = .next { u with result := s.result })

/-- R255, R240: while the block is idle at the host port all its state survives. An idle stretch passes whole when nothing
arrives in it; else up to the tick of its first arrival, which is then due, and the rest of the stretch is still to come.
An empty port is idle for one tick at a time (notes/assumptions/3). -/
def Obligations.IdlingKeepsTheState : Prop :=
  ∀ s : State, s.cfg.wf = true → (∀ t ∈ s.arrivals, s.now < t) →
    (s.inputs = [] → step s = .next { s with now := s.now + 1 }) ∧
    ∀ n rest, s.inputs = .idle n :: rest →
      ((∀ t ∈ s.arrivals, s.now + n ≤ t) → step s = .next { s with now := s.now + n, inputs := rest }) ∧
      ∀ a ∈ s.arrivals, (∀ t ∈ s.arrivals, a ≤ t) → a < s.now + n →
        step s = .next { s with now := a, inputs := .idle (s.now + n - a) :: rest }

/-- R8: a model refuses a configuration that breaks one of (a) to (h). -/
def Obligations.IllFormedConfigurationsAreRefused : Prop :=
  ∀ s : State, ¬ MeetsR8 s.cfg → step s = .refused .illFormedConfig

/-- R45: the values after reset, field by field. The configuration is supplied from outside. -/
def Obligations.ResetStateHasTheResetValues : Prop :=
  ∀ s : State, s = State.reset →
    s.rxf.valid = false ∧ s.rxf.frame = Frame.zero ∧ s.txf = Frame.zero ∧
    (∀ k, s.rxf.frame.pay.read k = 0#8 ∧ s.txf.pay.read k = 0#8) ∧
    s.shift = 0#12 ∧ s.bitcnt = 0#4 ∧ s.dur = 0 ∧ s.idx = 0#6 ∧ s.att = 0#2 ∧ s.wfr = RxFrame.zero ∧
    s.par = false ∧ s.masked = false ∧ s.tickLatch = false ∧ s.respPending = false ∧ s.drv = false ∧
    s.timer = 0 ∧ s.seq = .idle ∧ s.result = { code := .ok, field := .none, index := 0#6 } ∧
    s.act = 0#8 ∧ s.val = 0#12 ∧
    s.ds.mode = .stop ∧ s.ds.track = 0x01#8 ∧ s.ds.min = 0x00#8 ∧ s.ds.sec = 0x00#8 ∧ s.ds.status = .idle ∧
    s.ds.repeatOn = false ∧ s.ds.randomOn = false ∧ s.ds.scanOn = false ∧ s.ds.aux = 0x00#8 ∧
    (∀ k, slotRead s.slots k = Frame.zero) ∧ s.qw = 0#8 ∧ s.qr = 0#8 ∧ s.ovfCount = 0#16 ∧ s.dropCount = 0#16

/-- R260: RESET puts every piece of state into its reset value, touches neither the configuration nor the tables, emits
no DIAG event and takes zero ticks. What lies outside the block stays (notes/assumptions/15). -/
def Obligations.ResetOperationRestoresTheResetState : Prop :=
  ∀ s : State, ∃ t, exec .reset s = .next t ∧
    t = { State.reset with
          cfg := s.cfg, timerBase := s.now, now := s.now, env := s.env, arrivals := s.arrivals, inputs := s.inputs,
          diag := s.diag, drvLog := (s.now, false) :: s.drvLog, draws := s.draws } ∧
    t.timer = 0

/-- R25, R28, R21, R40, R60, R31, R11, R26: the reset state is a good state under a configuration that R8 accepts. -/
def Obligations.ResetStateIsSafe : Prop := Safe State.reset

/-- R25, R28, R30, R21, R208, R60, R93: every instruction leads from a good state to a good state, and leaves the
configuration as it was. The positions that Safe allows to RESULT are those of R230 (notes/assumptions/10). -/
def Obligations.EveryInstructionKeepsTheStateSafe : Prop :=
  ∀ (i : Instr) (s t : State), Safe s → exec i s = .next t → Safe t ∧ t.cfg = s.cfg

/-- R25, R28, R30, R21, R208, R60, R93: every step leads from a good state to a good state, and leaves the configuration
as it was; and from a good state there is always a next step. The positions that Safe allows to RESULT are those of
R230 (notes/assumptions/10). -/
def Obligations.EveryStepKeepsTheStateSafe : Prop :=
  ∀ s : State, Safe s → ∃ t, step s = .next t ∧ Safe t ∧ t.cfg = s.cfg

/-! ## Encodings -/

/-- R82, R83, R95: every instruction with legal operands is read back from its encoding, under any configuration: on the
wire with either value of the mode bit, at the host port with every operand. -/
def Obligations.DecodeInvertsEncode : Prop :=
  ∀ (c : Config) (i : Instr) (nActions : Nat), i.wf nActions = true → decode c (encode c i) = .ok i

/-- R95, R97 (c): a word of the host port for every one of the 32 codes, written out from the table of R95, and what it
starts; and the operand bits that the table does not list, of ARG1 and of ARG0, are ignored. The packing of the three ports
into one number is notes/assumptions/4. -/
def Obligations.PortWordsStartTheirOperations : Prop :=
  (∀ x ∈ [(0x00000000, Instr.nop), (0x00000101, .txBit true), (0x00000002, .txStart),
      (0x0A500403, .txField 4#4 0x0A5#12), (0x00000004, .rxBit), (0x00000C05, .rxField 12#4), (0x00000006, .rxStart),
      (0x00000007, .ackRead), (0x00000008, .ackSend), (0x00000009, .mask), (0x0000010A, .unmask true),
      (0x0000000B, .busFree), (0x0000000C, .sendFrame), (0x0000000D, .readFrame), (0x0000000E, .dispatch),
      (0x0000830F, .applyAction 0x83#8), (0x00000010, .tick), (0x0000C111, .respond 0xC1#8), (0x00000012, .buildStatus),
      (0x00000013, .qPush), (0x00000014, .qPop), (0x00000015, .qDrain), (0x00000016, .runStep),
      (0x36002117, .wrTxf 33#6 0x360#12), (0x00004818, .rdReg 72#8), (0x00000019, .reset), (0x0000001A, .reserved1A),
      (0x0000001B, .reserved1B), (0x0000001C, .reserved1C), (0x0000001D, .reserved1D), (0x0000001E, .reserved1E),
      (0x0000001F, .reserved1F)], decodeTableWord 32 x.1 = some x.2) ∧
  decodeTableWord 8 0x1F = some .reserved1F ∧
  (∀ w, w.op = 0x03#5 ∨ w.op = 0x17#5 ∨ decodePort { w with arg1 := 0#12 } = decodePort w) ∧
  ∀ (w : PortWord) (listed : BitVec 12),
    listed = (if w.op ∈ [0x01#5, 0x0A#5] then 0x001#12 else if w.op ∈ [0x03#5, 0x05#5] then 0x00F#12
      else if w.op = 0x17#5 then 0x03F#12 else if w.op ∈ [0x0F#5, 0x11#5, 0x18#5] then 0x0FF#12 else 0x000#12) →
    decodePort { w with arg0 := w.arg0 &&& listed } = decodePort w

/-- R88, R153: a head whose length field is 0 or above 32 is rejected by the wire decoder, whatever follows it. -/
def Obligations.IllegalLengthsAreRejectedOnTheWire : Prop :=
  ∀ (c : Config) (unicast : Bool) (snd rcv : Addr) (ctl : BitVec 4) (len : BitVec 8) (rest : List Symbol),
    (len.toNat = 0 ∨ 32 < len.toNat) →
      decodeHead c (headSymbols c unicast snd rcv ctl len ++ rest) = .error .length

/-- R86: the number of symbols of a frame and the ticks they take. -/
def Obligations.FrameHasItsSymbolsAndDuration : Prop :=
  ∀ (c : Config) (f : Frame), 1 ≤ f.length.toNat → f.length.toNat ≤ 32 →
    (frameSymbols c f).length = (if f.unicast then 45 + 10 * f.length.toNat else 42 + 9 * f.length.toNat) ∧
    waveTicks c (frameSymbols c f) = c.tStartDriven + c.tStartFloat +
      (if f.unicast then 44 + 10 * f.length.toNat else 41 + 9 * f.length.toNat) * c.tBit ∧
    (frameSymbols c f).length ≤ 365

/-- R84: the parity bit makes the number of one-bits of the field and the parity bit even. -/
def Obligations.ParityIsEven : Prop :=
  ∀ (w n : Nat) (v : BitVec w), (bitsMsb n v ++ [parity n v]).count true % 2 = 0

/-! ## The Bit Codec -/

/-- R110: TX_BIT drives the line for the driven phase of the bit from the tick it is issued at, releases it, and takes
`T_BIT` ticks; nothing else changes. -/
def Obligations.TransmittedBitIsOnePulse : Prop :=
  ∀ (s : State) (v : Bool) (d : Nat) (t : State), s.cfg.wf = true → d = (if v then s.cfg.t1Driven else s.cfg.t0Driven) →
    t = { s with drv := false, drvLog := (s.now + d, false) :: (s.now, true) :: s.drvLog,
                 now := s.now + s.cfg.tBit, result := ResultReg.okay } →
      exec (.txBit v) s = .next t ∧ (∀ u, s.now ≤ u → (drvAt t.drvLog u = true ↔ u < s.now + d)) ∧
        ∀ u, u < s.now → drvAt t.drvLog u = drvAt s.drvLog u

/-- R111: TX_START drives the line for `T_START_DRIVEN` ticks and releases it for `T_START_FLOAT`; nothing else
changes. -/
def Obligations.TransmittedStartBitIsOneLongPulse : Prop :=
  ∀ s t : State,
    t = { s with drv := false, drvLog := (s.now + s.cfg.tStartDriven, false) :: (s.now, true) :: s.drvLog,
                 now := s.now + s.cfg.tStartDriven + s.cfg.tStartFloat, result := ResultReg.okay } →
      exec .txStart s = .next t ∧
        (∀ u, s.now ≤ u → (drvAt t.drvLog u = true ↔ u < s.now + s.cfg.tStartDriven)) ∧
        ∀ u, u < s.now → drvAt t.drvLog u = drvAt s.drvLog u

/-- R112: TX_FIELD n, v puts the n bits of v, most-significant first, and their parity bit on the line, and takes
`(n + 1) · T_BIT` ticks; bits of v above n are ignored. -/
def Obligations.TransmittedFieldIsItsBitsAndParity : Prop :=
  ∀ (s : State) (n : BitVec 4) (v : BitVec 12), s.cfg.wf = true → 1 ≤ n.toNat → n.toNat ≤ 12 →
    ∃ t, exec (.txField n v) s = .next t ∧
      t = { s with drv := false, drvLog := t.drvLog, shift := BitVec.ofNat 12 (v.toNat % 2 ^ n.toNat),
                   bitcnt := t.bitcnt, now := s.now + (n.toNat + 1) * s.cfg.tBit, result := ResultReg.okay } ∧
      (∀ u, s.now ≤ u → drvAt t.drvLog u = envDrives (waveOf s.cfg s.now (fieldSymbols n.toNat v)) u) ∧
      ∀ u, u < s.now → drvAt t.drvLog u = drvAt s.drvLog u

/-- R113: RX_BIT on the pulse view of the line, with the core not driving: a pulse within `T_MAXBIT` is a bit; no pulse, a
pulse that does not end, and a pulse that is too long are DESYNC, with PAR and VAL unchanged. What DUR holds after the
first two is the model's reading of the pseudocode (notes/assumptions/9). -/
def Obligations.ReceivedBitIsTheClassOfItsPulse : Prop :=
  ∀ s : State, s.cfg.wf = true → s.drv = false →
    (∀ g d, g < s.cfg.rxTimeout → 1 ≤ d → d ≤ s.cfg.tMaxBit → PulseAt s.env s.now g d →
      exec .rxBit s = .next
        { s with now := s.now + g + d, dur := d, par := xor s.par (decide (d < s.cfg.tThreshold)),
                 val := if d < s.cfg.tThreshold then 1#12 else 0#12, result := ResultReg.okay }) ∧
    (QuietFrom s.env s.now (s.now + s.cfg.rxTimeout) →
      ∃ t, exec .rxBit s = .next t ∧
        EndsInError s t (raised .desync) (s.now + s.cfg.rxTimeout) s.dur s.drvLog) ∧
    (∀ g, g < s.cfg.rxTimeout → QuietFrom s.env s.now (s.now + g) →
      DrivenFrom s.env (s.now + g) (s.now + g + s.cfg.rxTimeout) →
      ∃ t, exec .rxBit s = .next t ∧
        EndsInError s t (raised .desync) (s.now + g + s.cfg.rxTimeout) s.cfg.rxTimeout s.drvLog) ∧
    (∀ g d, g < s.cfg.rxTimeout → s.cfg.tMaxBit < d → d < s.cfg.rxTimeout → PulseAt s.env s.now g d →
      ∃ t, exec .rxBit s = .next t ∧ EndsInError s t (raised .desync) (s.now + g + d) d s.drvLog)

/-- R114: RX_FIELD n on n legal pulses: the value has the bits in the order received, most-significant first, and PAR has
taken in its parity. Where a bit cannot be read the operation ends with its DESYNC, and VAL is not written. -/
def Obligations.ReceivedFieldIsItsBits : Prop :=
  ∀ (s : State) (n : BitVec 4) (ps : List (Nat × Nat)), s.cfg.wf = true → s.drv = false → 1 ≤ n.toNat → n.toNat ≤ 12 →
    PulseTrain s.env s.now ps → (∀ p ∈ ps, p.1 < s.cfg.rxTimeout ∧ 1 ≤ p.2 ∧ p.2 ≤ s.cfg.tMaxBit) →
    (ps.length = n.toNat →
      ∃ (t : State) (v : BitVec 12), exec (.rxField n) s = .next t ∧ v.toNat < 2 ^ n.toNat ∧
        bitsMsb n.toNat v = ps.map (fun p => decide (p.2 < s.cfg.tThreshold)) ∧
        t = { s with now := s.now + trainTicks ps, dur := t.dur, par := xor s.par (parity n.toNat v), shift := v,
                     bitcnt := t.bitcnt, val := v, result := ResultReg.okay } ∧
        ps.getLast?.map Prod.snd = some t.dur) ∧
    (ps.length < n.toNat → ∀ e, exec .rxBit { s with now := s.now + trainTicks ps } = .next e →
      e.result = raised .desync →
      ∃ t, exec (.rxField n) s = .next t ∧ t.par = ps.foldl (fun b p => xor b (decide (p.2 < s.cfg.tThreshold))) s.par ∧
        EndsInError s { t with par := s.par } (raised .desync) e.now t.dur s.drvLog)

/-- R116: RX_START with the core not driving: a first pulse within the tolerance is a start bit, a shorter one is
START_SHORT, one that is still driven after `T_START_MAX + 1` samples is START_LONG, none is DESYNC. PAR and VAL are not
touched. That DUR is unchanged by the DESYNC is the model's reading of the pseudocode (notes/assumptions/9). -/
def Obligations.ReceivedStartBitIsWithinTolerance : Prop :=
  ∀ s : State, s.cfg.wf = true → s.drv = false →
    (∀ g d, g < s.cfg.rxTimeout → s.cfg.tStartMin ≤ d → d ≤ s.cfg.tStartMax → PulseAt s.env s.now g d →
      exec .rxStart s = .next { s with now := s.now + g + d, dur := d, result := ResultReg.okay }) ∧
    (∀ g d, g < s.cfg.rxTimeout → 1 ≤ d → d < s.cfg.tStartMin → PulseAt s.env s.now g d →
      ∃ t, exec .rxStart s = .next t ∧ EndsInError s t (raised .startShort) (s.now + g + d) d s.drvLog) ∧
    (∀ g, g < s.cfg.rxTimeout → QuietFrom s.env s.now (s.now + g) →
      DrivenFrom s.env (s.now + g) (s.now + g + (s.cfg.tStartMax + 1)) →
      ∃ t, exec .rxStart s = .next t ∧ EndsInError s t (raised .startLong) (s.now + g + (s.cfg.tStartMax + 1))
        (s.cfg.tStartMax + 1) s.drvLog) ∧
    (QuietFrom s.env s.now (s.now + s.cfg.rxTimeout) →
      ∃ t, exec .rxStart s = .next t ∧
        EndsInError s t (raised .desync) (s.now + s.cfg.rxTimeout) s.dur s.drvLog)

/-- R117: ACK_READ drives `T_1_DRIVEN` ticks and measures the pulse: it is an acknowledgment exactly when its whole driven
duration classifies as a `0`; a line that stays driven is none. -/
def Obligations.AckReadMeasuresTheSlot : Prop :=
  ∀ (s : State) (d : Nat), s.cfg.wf = true → s.cfg.t1Driven ≤ d → DrivenFrom s.env (s.now + s.cfg.t1Driven) (s.now + d) →
    (d < s.cfg.rxTimeout → envDrives s.env (s.now + d) = false →
      exec .ackRead s = .next
        { s with drv := false, drvLog := (s.now + s.cfg.t1Driven, false) :: (s.now, true) :: s.drvLog,
                 dur := d, val := if s.cfg.tThreshold ≤ d ∧ d ≤ s.cfg.tMaxBit then 1#12 else 0#12,
                 now := s.now + max d s.cfg.tBit, result := ResultReg.okay }) ∧
    (d = s.cfg.rxTimeout →
      exec .ackRead s = .next
        { s with drv := false, drvLog := (s.now + s.cfg.t1Driven, false) :: (s.now, true) :: s.drvLog,
                 dur := d, val := 0#12, now := s.now + d, result := ResultReg.okay })

/-- R118: ACK_SEND drives `T_0_DRIVEN` ticks from the tick of the sender's edge and waits for the line to be released;
without an edge it never drives, and a line that stays driven is DESYNC. That DUR is unchanged by either DESYNC is the
model's reading of the pseudocode (notes/assumptions/9). -/
def Obligations.AckSendStretchesTheSlot : Prop :=
  ∀ s : State, s.cfg.wf = true → s.drv = false →
    (∀ g, g < s.cfg.rxTimeout → QuietFrom s.env s.now (s.now + g) → envDrives s.env (s.now + g) = true →
      ∀ n, n = s.now + g + s.cfg.t0Driven →
      (∀ e, e < s.cfg.rxTimeout → DrivenFrom s.env n (n + e) → envDrives s.env (n + e) = false →
        exec .ackSend s = .next
          { s with drv := false, drvLog := (n, false) :: (s.now + g, true) :: s.drvLog, now := n + e,
                   result := ResultReg.okay }) ∧
      (DrivenFrom s.env n (n + s.cfg.rxTimeout) →
        ∃ t, exec .ackSend s = .next t ∧ EndsInError s t (raised .desync) (n + s.cfg.rxTimeout) s.dur
          ((n, false) :: (s.now + g, true) :: s.drvLog))) ∧
    (QuietFrom s.env s.now (s.now + s.cfg.rxTimeout) →
      ∃ t, exec .ackSend s = .next t ∧
        EndsInError s t (raised .desync) (s.now + s.cfg.rxTimeout) s.dur s.drvLog)

/-- R121: what one block transmits, another block with the same timing receives: a bit with TX_BIT and RX_BIT, a start
bit with TX_START and RX_START, with no third driver while the sender sends and the receiver waiting at its first
tick. -/
def Obligations.PulsesRoundTripBetweenTwoBlocks : Prop :=
  ∀ s r : State, s.cfg.wf = true → r.cfg = { s.cfg with myAddr := r.cfg.myAddr } → r.drv = false → r.now ≤ s.now →
    s.now < r.now + r.cfg.rxTimeout →
    (∀ v t, exec (.txBit v) s = .next t →
      (∀ u, r.now ≤ u → u < t.now → envDrives r.env u = (decide (s.now ≤ u) && drvAt t.drvLog u)) →
      ∃ q, exec .rxBit r = .next q ∧ q.val = (if v then 1#12 else 0#12) ∧ q.result = ResultReg.okay ∧
        q.dur = (if v then s.cfg.t1Driven else s.cfg.t0Driven)) ∧
    (∀ t, exec .txStart s = .next t →
      (∀ u, r.now ≤ u → u < t.now → envDrives r.env u = (decide (s.now ≤ u) && drvAt t.drvLog u)) →
      ∃ q, exec .rxStart r = .next q ∧ q.result = ResultReg.okay ∧ q.dur = s.cfg.tStartDriven)

/-- R155: the parity bit that TX_FIELD sends, the symbol after the n bits, is the value PAR holds in a receiver that has
cleared PAR and runs RX_FIELD(n) on the same pulses, with no third driver while the sender sends. -/
def Obligations.SenderAndReceiverAgreeOnParity : Prop :=
  ∀ (s r : State) (n : BitVec 4) (v : BitVec 12) (t : State), s.cfg.wf = true →
    r.cfg = { s.cfg with myAddr := r.cfg.myAddr } → r.drv = false → r.par = false → r.now ≤ s.now →
    s.now < r.now + r.cfg.rxTimeout → 1 ≤ n.toNat → n.toNat ≤ 12 → v.toNat < 2 ^ n.toNat →
    exec (.txField n v) s = .next t →
    (∀ u, r.now ≤ u → u < t.now → envDrives r.env u = (decide (s.now ≤ u) && drvAt t.drvLog u)) →
      ∃ q, exec (.rxField n) r = .next q ∧ q.val = v ∧
        ∀ u, s.now + n.toNat * s.cfg.tBit ≤ u →
          (drvAt t.drvLog u = true ↔ u < s.now + n.toNat * s.cfg.tBit + (if q.par then s.cfg.t1Driven else s.cfg.t0Driven))

/-! ## The Frame Transport -/

/-- R140, R141: MASK returns what MASKED was and sets it; UNMASK p restores MASKED, and when that makes MASKED 0 and a
tick is latched, the latch is cleared and TICK runs. -/
def Obligations.MaskAndUnmaskSaveAndRestore : Prop :=
  ∀ (s : State) (p : Bool),
    exec .mask s = .next
      { s with val := if s.masked then 1#12 else 0#12, masked := true, result := ResultReg.okay } ∧
    (p = true ∨ s.tickLatch = false → exec (.unmask p) s = .next { s with masked := p, result := ResultReg.okay }) ∧
    (p = false → s.tickLatch = true →
      ∃ u, exec .tick { s with masked := false, tickLatch := false } = .next u ∧ exec (.unmask p) s = .next u)

/-- R145: the bus is free when the line is RECESSIVE at `T_BIT` consecutive samples; the first DOMINANT sample makes it
busy at that tick. That the busy answer is also a DIAG event is notes/assumptions/8. -/
def Obligations.BusFreeNeedsOneIdleBitPeriod : Prop :=
  ∀ s : State, s.drv = false →
    (QuietFrom s.env s.now (s.now + s.cfg.tBit) →
      exec .busFree s = .next { s with val := 1#12, now := s.now + s.cfg.tBit, result := ResultReg.okay }) ∧
    (∀ e, e < s.cfg.tBit → QuietFrom s.env s.now (s.now + e) → envDrives s.env (s.now + e) = true →
      exec .busFree s = .next
        { s with val := 0#12, now := s.now + e, result := raised .busy, diag := s.diag ++ [raised .busy] })

/-- R145 (d), R8 (b), (e): entered anywhere from the first tick of a frame that another agent sends to the last driven tick
of its last symbol, the bus-free check does not pass. The ack slots of the frame hold any pulse, short or stretched, after
which the line floats for less than a bit period. What drives after the frame, or after the `T_BIT` ticks of the check, does
not matter. -/
def Obligations.BusFreeNeverPassesInsideAFrame : Prop :=
  ∀ (s : State) (t0 : Nat) (f : Frame) (slot : Nat → Nat × Nat) (ps : List (Nat × Nat)) (p : Nat × Nat),
    s.cfg.wf = true → s.drv = false →
    (∀ k ∈ slotNumbers f.unicast f.length.toNat, 1 ≤ (slot k).1 ∧ (slot k).2 < (slot k).1 + s.cfg.tBit) →
    ps = heardPulses s.cfg (slotNumbers f.unicast f.length.toNat) slot (frameSymbols s.cfg f) →
    ps.getLast? = some p → t0 ≤ s.now → s.now < pulseStart t0 ps (ps.length - 1) + p.1 →
    (∀ u, s.now ≤ u → u < s.now + s.cfg.tBit → u < pulseStart t0 ps (ps.length - 1) + p.1 →
      envDrives s.env u = envDrives (pulseWave t0 ps) u) →
      ∃ t, exec .busFree s = .next t ∧ t.val = 0#12 ∧ t.result = raised .busy

/-- R146, R236: SEND_FRAME refuses an illegal length before it masks or touches anything; when its bus-free check sees the
line driven it ends BUSY at that tick and has never driven the line. That DUR and VAL are then unchanged is
notes/assumptions/9 and notes/assumptions/6. Which arrivals the exit takes is notes/assumptions/19. -/
def Obligations.SendFrameRefusesBadLengthAndBusyBus : Prop :=
  ∀ s : State,
    (s.txf.length.toNat = 0 ∨ 32 < s.txf.length.toNat →
      exec .sendFrame s = .next { s with result := raised .badlen, diag := s.diag ++ [raised .badlen] }) ∧
    (1 ≤ s.txf.length.toNat → s.txf.length.toNat ≤ 32 → s.drv = false →
      ∀ e, e < s.cfg.tBit → QuietFrom s.env s.now (s.now + e) → envDrives s.env (s.now + e) = true →
        ∃ t, exec .sendFrame s = .next t ∧ FrameOpFrame s t ∧ t.rxf = s.rxf ∧ t.par = s.par ∧ t.dur = s.dur ∧
          t.result = raised .busy ∧ t.diag = s.diag ++ [raised .busy] ∧ t.now = s.now + e ∧
          t.drvLog = (s.now + e, false) :: s.drvLog)

/-- R146, R80, R82, R280: a broadcast frame with a legal length on a free bus is sent whole: after the check of `T_BIT`
ticks the core's own contribution to the line is the symbols of the frame with nominal timing. That VAL is unchanged is
notes/assumptions/6. Which arrivals the exit takes is notes/assumptions/19. -/
def Obligations.BroadcastFrameIsSentWhole : Prop :=
  ∀ s : State, Safe s → 1 ≤ s.txf.length.toNat → s.txf.length.toNat ≤ 32 → s.txf.unicast = false →
    QuietFrom s.env s.now (s.now + s.cfg.tBit) →
      ∃ t, exec .sendFrame s = .next t ∧ FrameOpFrame s t ∧ t.rxf = s.rxf ∧ t.par = s.par ∧
        t.result = ResultReg.okay ∧ t.diag = s.diag ∧
        t.now = s.now + s.cfg.tBit + (s.cfg.tStartDriven + s.cfg.tStartFloat) +
          (41 + 9 * s.txf.length.toNat) * s.cfg.tBit ∧
        (∀ u, s.now ≤ u →
          drvAt t.drvLog u = envDrives (waveOf s.cfg (s.now + s.cfg.tBit) (frameSymbols s.cfg s.txf)) u) ∧
        ∀ u, u < s.now → drvAt t.drvLog u = drvAt s.drvLog u

/-- R146, R85, R117: a unicast frame with a legal length on a free bus, every one of its ack slots stretched past the
threshold by some other agent and released within `T_MAXBIT`, is sent whole and ends OK. A slot that is held beyond the
bit period delays what follows; with none the frame has the duration of R86. That VAL is unchanged is
notes/assumptions/6. Which arrivals the exit takes is notes/assumptions/19. -/
def Obligations.AcknowledgedUnicastFrameIsSentWhole : Prop :=
  ∀ (s : State) (late : Nat → Nat), Safe s → 1 ≤ s.txf.length.toNat → s.txf.length.toNat ≤ 32 → s.txf.unicast = true →
    QuietFrom s.env s.now (s.now + s.cfg.tBit) →
    SlotsHeld s.cfg s.env (s.now + s.cfg.tBit) (ackSlots s.txf.length.toNat) late →
      ∃ t, exec .sendFrame s = .next t ∧ FrameOpFrame s t ∧ t.rxf = s.rxf ∧ t.par = s.par ∧
        t.result = ResultReg.okay ∧ t.diag = s.diag ∧
        t.now = s.now + s.cfg.tBit + (s.cfg.tStartDriven + s.cfg.tStartFloat) +
          (44 + 10 * s.txf.length.toNat) * s.cfg.tBit +
          ((ackSlots s.txf.length.toNat).map (fun p => late p.1)).sum ∧
        (∀ u, s.now ≤ u → drvAt t.drvLog u =
          envDrives (heldWave s.cfg (s.now + s.cfg.tBit) (held late (frameSymbols s.cfg s.txf))) u) ∧
        ∀ u, u < s.now → drvAt t.drvLog u = drvAt s.drvLog u

/-- R146, R147, R117, R235: a unicast send stops at the first ack slot that is not acknowledged, because it is left short,
held beyond `T_MAXBIT`, or never released; it reports the field of that slot (and the byte's index), and has sent exactly
the symbols up to and including that slot. That VAL is unchanged is notes/assumptions/6. Which arrivals the exit
takes is notes/assumptions/19. -/
def Obligations.UnicastSendStopsAtTheFirstMissingAck : Prop :=
  ∀ (s : State) (late : Nat → Nat) (pre post : List Place) (k d : Nat) (f : FieldPos) (i : BitVec 6), Safe s →
    1 ≤ s.txf.length.toNat → s.txf.length.toNat ≤ 32 → s.txf.unicast = true →
    QuietFrom s.env s.now (s.now + s.cfg.tBit) →
    ackSlots s.txf.length.toNat = pre ++ (k, f, i) :: post →
    SlotsHeld s.cfg s.env (s.now + s.cfg.tBit) pre late →
    UnackedFor s.cfg s.env (heldTime s.cfg late (s.now + s.cfg.tBit) k) d →
      ∃ t, exec .sendFrame s = .next t ∧ FrameOpFrame s t ∧ t.rxf = s.rxf ∧ t.par = s.par ∧
        t.result = { code := .nak, field := f, index := i } ∧ t.diag = s.diag ++ [t.result] ∧
        t.now = heldTime s.cfg late (s.now + s.cfg.tBit) k + max d s.cfg.tBit ∧
        (∀ u, s.now ≤ u → drvAt t.drvLog u = envDrives
          (heldWave s.cfg (s.now + s.cfg.tBit) (held late ((frameSymbols s.cfg s.txf).take (k + 1)))) u) ∧
        ∀ u, u < s.now → drvAt t.drvLog u = drvAt s.drvLog u

/-- R150, R149, R152, R113, R118, R274: a frame that another agent sends, each pulse within the tolerance of its symbol,
its start bit beginning while the core waits for it or entered with enough of it left, is read whole into RXF, whatever its
addresses. The core drives the line exactly in the ack slots of a unicast frame to `MY_ADDR`, which others may hold for
longer; those of any other unicast frame it reads as pulses of any bit length, acknowledged by the addressed device or not,
and ignores. What drives after the last pulse does not matter. Payload bytes beyond the length stay (R62,
notes/assumptions/12); that VAL is unchanged is notes/assumptions/6. Which arrivals the exit takes is
notes/assumptions/19. -/
def Obligations.FrameWithinToleranceIsReadWhole : Prop :=
  ∀ (s : State) (t0 : Nat) (f : Frame) (ps : List (Nat × Nat)), Safe s →
    1 ≤ f.length.toNat → f.length.toNat ≤ 32 →
    f.sent.Heard s (frameSymbols s.cfg f) t0 ps (ps.length - 1) →
      ∃ t, exec .readFrame s = .next t ∧ FrameOpFrame s t ∧ t.result = ResultReg.okay ∧ t.diag = s.diag ∧
        t.rxf = { valid := true, frame := { f with pay := t.rxf.frame.pay } } ∧
        (∀ k, k < f.length.toNat → t.rxf.frame.pay.read k = f.pay.read k) ∧
        (∀ k, f.length.toNat ≤ k → t.rxf.frame.pay.read k = s.rxf.frame.pay.read k) ∧
        t.now = f.sent.pulseEnd s.cfg t0 ps (ps.length - 1) ∧
        ∀ u, s.now ≤ u → drvAt t.drvLog u = acksAt s.cfg t0 ps (f.sent.answered s.cfg) u

/-- R150 (g), R232, R231, R243: a read that meets no start bit ends at START: DESYNC when no pulse begins within
`RX_TIMEOUT`, START_SHORT and START_LONG when the first pulse, or what is left of it at entry (R274), is not a start bit.
A read that loses the line after the pulses of symbols 0 to j - 1 ends with DESYNC at the position, and data index, of
symbol j: when no pulse follows within `RX_TIMEOUT`; when the pulse that follows is longer than `T_MAXBIT`, or never over;
and, in a slot that the core acknowledges, when the line is not released within `RX_TIMEOUT` of the core's own pulse. What
drives later does not matter. Only the slots reached were acknowledged. That VAL is unchanged is notes/assumptions/6; that
the positions are those of R150 and R230 is notes/assumptions/10. Which arrivals the exit takes is
notes/assumptions/19. -/
def Obligations.ReadNeedsAStartBitAndEverySymbol : Prop :=
  ∀ s : State, s.cfg.wf = true → s.drv = false →
    (QuietFrom s.env s.now (s.now + s.cfg.rxTimeout) →
      ∃ t, exec .readFrame s = .next t ∧ FrameOpFrame s t ∧ t.rxf = { s.rxf with valid := false } ∧
        t.result = { code := .desync, field := .start, index := 0#6 } ∧ t.diag = s.diag ++ [t.result] ∧
        t.now = s.now + s.cfg.rxTimeout ∧ t.drvLog = (t.now, false) :: s.drvLog) ∧
    (∀ g d, g < s.cfg.rxTimeout → 1 ≤ d → d < s.cfg.tStartMin → PulseAt s.env s.now g d →
      ∃ t, exec .readFrame s = .next t ∧ FrameOpFrame s t ∧ t.rxf = { s.rxf with valid := false } ∧
        t.result = { code := .startShort, field := .start, index := 0#6 } ∧ t.diag = s.diag ++ [t.result] ∧
        t.now = s.now + g + d ∧ t.drvLog = (t.now, false) :: s.drvLog) ∧
    (∀ g, g < s.cfg.rxTimeout → QuietFrom s.env s.now (s.now + g) →
      DrivenFrom s.env (s.now + g) (s.now + g + (s.cfg.tStartMax + 1)) →
      ∃ t, exec .readFrame s = .next t ∧ FrameOpFrame s t ∧ t.rxf = { s.rxf with valid := false } ∧
        t.result = { code := .startLong, field := .start, index := 0#6 } ∧ t.diag = s.diag ++ [t.result] ∧
        t.now = s.now + g + (s.cfg.tStartMax + 1) ∧ t.drvLog = (t.now, false) :: s.drvLog) ∧
    ∀ (t0 : Nat) (w : SentFrame) (ps : List (Nat × Nat)) (j n : Nat) (pos : FieldPos) (i : BitVec 6), Safe s →
      w.Announced → (lengthLegal w.length.toNat = true ∨ j < 44) → 1 ≤ j →
      (symbolPlaces w.unicast w.data.length)[j]? = some (pos, i) →
      w.Heard s (w.symbols s.cfg) t0 ps (j - 1) → n = w.pulseEnd s.cfg t0 ps (j - 1) →
      (QuietFrom s.env n (n + s.cfg.rxTimeout) →
        ∃ t, exec .readFrame s = .next t ∧ FrameOpFrame s t ∧ t.rxf = { s.rxf with valid := false } ∧
          t.result = { code := .desync, field := pos, index := i } ∧ t.diag = s.diag ++ [t.result] ∧
          t.now = n + s.cfg.rxTimeout ∧
          ∀ u, s.now ≤ u →
            drvAt t.drvLog u = acksAt s.cfg t0 ps ((w.answered s.cfg).filter (fun k => decide (k < j))) u) ∧
      (∀ g d, g < s.cfg.rxTimeout → QuietFrom s.env n (n + g) → (w.answered s.cfg).contains j = false →
        s.cfg.tMaxBit < d → d ≤ s.cfg.rxTimeout → DrivenFrom s.env (n + g) (n + g + d) →
        (d < s.cfg.rxTimeout → envDrives s.env (n + g + d) = false) →
        ∃ t, exec .readFrame s = .next t ∧ FrameOpFrame s t ∧ t.rxf = { s.rxf with valid := false } ∧
          t.result = { code := .desync, field := pos, index := i } ∧ t.diag = s.diag ++ [t.result] ∧
          t.now = n + g + d ∧
          ∀ u, s.now ≤ u →
            drvAt t.drvLog u = acksAt s.cfg t0 ps ((w.answered s.cfg).filter (fun k => decide (k < j))) u) ∧
      ∀ g, g < s.cfg.rxTimeout → QuietFrom s.env n (n + g) → (w.answered s.cfg).contains j = true →
        envDrives s.env (n + g) = true →
        DrivenFrom s.env (n + g + s.cfg.t0Driven) (n + g + s.cfg.t0Driven + s.cfg.rxTimeout) →
        ∃ t, exec .readFrame s = .next t ∧ FrameOpFrame s t ∧ t.rxf = { s.rxf with valid := false } ∧
          t.result = { code := .desync, field := pos, index := i } ∧ t.diag = s.diag ++ [t.result] ∧
          t.now = n + g + s.cfg.t0Driven + s.cfg.rxTimeout ∧
          ∀ u, s.now ≤ u →
            drvAt t.drvLog u = (acksAt s.cfg t0 ps ((w.answered s.cfg).filter (fun k => decide (k < j))) u ||
              (decide (n + g ≤ u) && decide (u < n + g + s.cfg.t0Driven)))

/-- R148, R233, R243: a frame sent with the parity bit of one field inverted ends the read with PARITY at that field, also
where the length field is illegal; RXF holds no frame, the field is not acknowledged, and only the ack slots before it were.
What drives after that parity bit does not matter: the sender stops, or goes on. That VAL is unchanged is
notes/assumptions/6. Which arrivals the exit takes is notes/assumptions/19. -/
def Obligations.WrongParityBitEndsTheReadAtItsField : Prop :=
  ∀ (s : State) (t0 : Nat) (w : SentFrame) (ps : List (Nat × Nat)) (k : Nat) (pos : FieldPos) (i : BitVec 6), Safe s →
    w.Announced → (k, pos, i) ∈ parityBits w.unicast w.data.length →
    w.Heard s ((w.symbols s.cfg).modify k flipSymbol) t0 ps k →
      ∃ t, exec .readFrame s = .next t ∧ FrameOpFrame s t ∧ t.rxf = { s.rxf with valid := false } ∧
        t.result = { code := .parity, field := pos, index := i } ∧ t.diag = s.diag ++ [t.result] ∧
        t.now = w.pulseEnd s.cfg t0 ps k ∧
        ∀ u, s.now ≤ u →
          drvAt t.drvLog u = acksAt s.cfg t0 ps ((w.answered s.cfg).filter (fun j => decide (j < k))) u

/-- R153, R234: a frame whose length field is 0 or above 32 ends the read with LENGTH as soon as the parity of the length
has been checked, at symbol k; the length is not acknowledged and no data byte is read. What drives after that symbol does
not matter. That VAL is unchanged is notes/assumptions/6; that the position is LENGTH, as R150 and R230 have it, is
notes/assumptions/10. Which arrivals the exit takes is notes/assumptions/19. -/
def Obligations.IllegalLengthEndsTheReadBeforeTheData : Prop :=
  ∀ (s : State) (t0 : Nat) (w : SentFrame) (ps : List (Nat × Nat)) (k : Nat), Safe s →
    (w.length.toNat = 0 ∨ 32 < w.length.toNat) → k = (if w.unicast then 43 else 41) →
    w.Heard s (w.symbols s.cfg) t0 ps k →
      ∃ t, exec .readFrame s = .next t ∧ FrameOpFrame s t ∧ t.rxf = { s.rxf with valid := false } ∧
        t.result = { code := .length, field := .length, index := 0#6 } ∧ t.diag = s.diag ++ [t.result] ∧
        t.now = w.pulseEnd s.cfg t0 ps k ∧
        ∀ u, s.now ≤ u →
          drvAt t.drvLog u = acksAt s.cfg t0 ps ((w.answered s.cfg).filter (fun j => decide (j < k))) u

/-- R150, R21, R70: every read ends; a good one leaves a valid frame of legal length in RXF, and after a failed one
VALID is 0, no field of the failed frame is visible, and its error is one DIAG event. That VAL is unchanged is
notes/assumptions/6. Which arrivals the exit takes is notes/assumptions/19. -/
def Obligations.FailedReadSurfacesNoFrame : Prop :=
  ∀ s : State, ∃ t, exec .readFrame s = .next t ∧ FrameOpFrame s t ∧
    (t.result.code = .ok → t.result = ResultReg.okay ∧ t.diag = s.diag ∧ t.rxf.valid = true ∧
      1 ≤ t.rxf.frame.length.toNat ∧ t.rxf.frame.length.toNat ≤ 32) ∧
    (t.result.code ≠ .ok → t.rxf = { s.rxf with valid := false } ∧ t.diag = s.diag ++ [t.result])

/-- R151, R241, R244, R246: after any frame operation, whatever its result, DRV is 0, MASKED is what it was, SEQ is IDLE, and a
tick that came meanwhile has been served, when MASKED was 0 at entry; else it stays latched. A tick that is served leaves
RESULT alone: it is still OK with no DIAG event, or the error that was emitted. The arrivals that came meanwhile are gone
from those to come, each served once or lost (R276), and no other is. Which ones came meanwhile, at the very last tick, is
notes/assumptions/19. A SEND_FRAME of an illegal length is refused before it masks, and serves nothing. -/
def Obligations.FrameOperationsRestoreBusAndMask : Prop :=
  ∀ s : State,
    (∀ i : Instr,
      (i = .readFrame ∨ (i = .sendFrame ∧ 1 ≤ s.txf.length.toNat ∧ s.txf.length.toNat ≤ 32)) →
        ∃ t, exec i s = .next t ∧ t.drv = false ∧ t.masked = s.masked ∧ t.seq = .idle ∧
          ((t.result = ResultReg.okay ∧ t.diag = s.diag) ∨
            (t.result.code ≠ .ok ∧ t.diag = s.diag ++ [t.result])) ∧
          t.arrivals = s.arrivals.filter (fun a => decide (t.now ≤ a)) ∧
          ∀ came, came = (s.tickLatch || s.arrivals.any (fun a => decide (a < t.now))) →
            t.tickLatch = (s.masked && came) ∧
            (came = true → s.masked = false →
              ∃ u, exec .tick s = .next u ∧ t.ds = u.ds ∧ t.respPending = u.respPending) ∧
            (came = false ∨ s.masked = true → t.ds = s.ds ∧ t.respPending = s.respPending)) ∧
    (s.txf.length.toNat = 0 ∨ 32 < s.txf.length.toNat →
      ∃ t, exec .sendFrame s = .next t ∧ t.drv = s.drv ∧ t.masked = s.masked ∧ t.tickLatch = s.tickLatch ∧
        t.arrivals = s.arrivals ∧ t.ds = s.ds ∧ t.respPending = s.respPending ∧ t.seq = s.seq ∧ t.result = raised .badlen)

/-- R154: one block runs SEND_FRAME, a second one with the same configuration except `MY_ADDR` runs READ_FRAME, entered
while the bus is idle and early enough, with no third driver: each hears what the other drives, and only that, up to and
with the tick at which the sender is done. If the frame is broadcast, or unicast to the second block, both end OK and RXF
is the frame. -/
def Obligations.FramesRoundTripBetweenTwoBlocks : Prop :=
  ∀ s r t q : State, Safe s → Safe r → r.cfg = { s.cfg with myAddr := r.cfg.myAddr } →
    1 ≤ s.txf.length.toNat → s.txf.length.toNat ≤ 32 →
    (s.txf.unicast = false ∨ s.txf.receiver = r.cfg.myAddr) →
    r.now ≤ s.now + s.cfg.tBit → s.now + s.cfg.tBit < r.now + s.cfg.rxTimeout →
    exec .sendFrame s = .next t → exec .readFrame r = .next q →
    (∀ u, r.now ≤ u → u ≤ t.now → envDrives r.env u = (decide (s.now ≤ u) && drvAt t.drvLog u)) →
    (∀ u, s.now ≤ u → u ≤ t.now → envDrives s.env u = (decide (r.now ≤ u) && drvAt q.drvLog u)) →
      t.result = ResultReg.okay ∧ q.result = ResultReg.okay ∧ q.rxf.valid = true ∧
      q.rxf.frame.unicast = s.txf.unicast ∧ q.rxf.frame.sender = s.txf.sender ∧
      q.rxf.frame.receiver = s.txf.receiver ∧ q.rxf.frame.control = s.txf.control ∧
      q.rxf.frame.length = s.txf.length ∧
      ∀ k, k < s.txf.length.toNat → q.rxf.frame.pay.read k = s.txf.pay.read k

/-- R280: every operation ends within the ticks of the table, whatever the environment does; the transmit operations,
a free bus check, a broadcast send that is not BUSY and an ack slot that ends within the bit period take exactly their
time; a good read is bounded by the length it has read. -/
def Obligations.EveryOperationEndsInBoundedTime : Prop :=
  ∀ (i : Instr) (s t : State), s.cfg.wf = true → onWire i = false → exec i s = .next t →
    s.now ≤ t.now ∧ t.now ≤ s.now + durationBound s i ∧
    ((∃ v, i = .txBit v) ∨ i = .txStart ∨ (∃ n v, i = .txField n v ∧ 1 ≤ n.toNat ∧ n.toNat ≤ 12) →
      t.now = s.now + durationBound s i) ∧
    (i = .busFree → (t.val = 1#12 ∧ t.now = s.now + s.cfg.tBit) ∨ (t.val = 0#12 ∧ t.now < s.now + s.cfg.tBit)) ∧
    (i = .ackRead → t.dur < s.cfg.tBit → t.now = s.now + s.cfg.tBit) ∧
    (i = .sendFrame → s.txf.unicast = false → 1 ≤ s.txf.length.toNat → s.txf.length.toNat ≤ 32 →
      t.result.code ≠ .busy → t.now = s.now + durationBound s i) ∧
    (i = .readFrame → t.result.code = .ok → t.now ≤ s.now + readBound s.cfg t.rxf.frame.length.toNat)

/-! ## The Dispatcher and the Device State Model -/

/-- R171, R172: DISPATCH yields the action of the first entry of the table that matches RXF, and NONE when RXF is not
valid or nothing matches; it writes ACT, VAL and RESULT only. -/
def Obligations.DispatchYieldsTheFirstMatch : Prop :=
  ∀ s : State, ∃ a : Byte,
    exec .dispatch s = .next { s with act := a, val := a.setWidth 12, result := ResultReg.okay } ∧
    (s.rxf.valid = false → a = 0#8) ∧
    ((∀ e ∈ s.cfg.cmdTable, ¬ Matches s.cfg s.rxf.frame e) → a = 0#8) ∧
    ∀ pre e post, s.rxf.valid = true → s.cfg.cmdTable = pre ++ e :: post →
      (∀ x ∈ pre, ¬ Matches s.cfg s.rxf.frame x) → Matches s.cfg s.rxf.frame e → a = e.action

/-- R173: an entry whose pattern starts with the pattern of an earlier entry of the same mode can never be selected:
without it DISPATCH gives the same. -/
def Obligations.ShorterEarlierPatternShadowsALongerOne : Prop :=
  ∀ (s : State) (pre mid post : List CmdEntry) (e x : CmdEntry),
    s.cfg.cmdTable = pre ++ e :: (mid ++ x :: post) → e.mode = x.mode → e.pattern <+: x.pattern →
      ∃ a : Byte, exec .dispatch s = .next { s with act := a, val := a.setWidth 12, result := ResultReg.okay } ∧
        ∀ s' : State, s' = { s with cfg.cmdTable := pre ++ e :: (mid ++ post) } →
          exec .dispatch s' = .next { s' with act := a, val := a.setWidth 12, result := ResultReg.okay }

/-- R183, R182: APPLY_ACTION applies the effect of the action to DS and sets RESP_PENDING where the action says so;
NONE changes nothing. Nothing else is written. -/
def Obligations.ApplyActionHasTheEffectOfItsEntry : Prop :=
  ∀ (s : State) (a : Byte),
    (a = 0#8 → exec (.applyAction a) s = .next { s with result := ResultReg.okay }) ∧
    ∀ e, 1 ≤ a.toNat → s.cfg.actionTable[a.toNat - 1]? = some e →
      ∃ ds, exec (.applyAction a) s = .next
          { s with ds := ds, respPending := s.respPending || e.pending, result := ResultReg.okay } ∧
        (e.effect = .none → ds = s.ds) ∧
        (e.effect = .enable → ds = { s.ds with aux := ds.aux } ∧
          ∀ b, ds.aux.getLsbD b = (decide (b = 0) || s.ds.aux.getLsbD b)) ∧
        (e.effect = .disable → ds = { s.ds with aux := ds.aux } ∧
          ∀ b, ds.aux.getLsbD b = (decide (b ≠ 0) && s.ds.aux.getLsbD b)) ∧
        (e.effect = .play → ds = { s.ds with mode := .play, status := .playing, min := 0x00#8, sec := 0x00#8 }) ∧
        (e.effect = .stop → ds = { s.ds with mode := .stop, status := .idle }) ∧
        (∀ k, e.effect = .ext k → ds = Config.extEffect k s.ds)

/-- R185, R184: TICK counts a second in play mode only, carries into the minutes when the seconds reach 0x60, and marks a
response pending as the configuration says; nothing else but RESULT is written. The increment adds 7 to a byte whose low
digit is 9 and 1 to any other, modulo 256, so that 0x99 goes to 0xA0 and 0xF9 to 0x00. -/
def Obligations.TickCountsOneSecond : Prop :=
  ∀ s : State, ∃ ds p, exec .tick s = .next { s with ds := ds, respPending := p, result := ResultReg.okay } ∧
    (s.ds.mode = .stop → ds = s.ds) ∧
    (s.ds.mode = .play → bcdInc s.ds.sec ≠ 0x60#8 → ds = { s.ds with sec := bcdInc s.ds.sec }) ∧
    (s.ds.mode = .play → bcdInc s.ds.sec = 0x60#8 → ds = { s.ds with sec := 0x00#8, min := bcdInc s.ds.min }) ∧
    (s.ds.mode = .play ∨ s.cfg.tickPendingOnlyInPlay = false → p = true) ∧
    (s.ds.mode = .stop → s.cfg.tickPendingOnlyInPlay = true → p = s.respPending) ∧
    (∀ v : Byte, bcdInc v = BitVec.ofNat 8 (if v.toNat % 16 = 9 then v.toNat + 7 else v.toNat + 1)) ∧
    bcdInc 0x99#8 = 0xA0#8 ∧ bcdInc 0xF9#8 = 0x00#8

/-- R186, R185: while playing, a time in packed BCD of at most 59 seconds and other than 99:59 advances by exactly one
second, and stays in packed BCD with at most 59 seconds. -/
def Obligations.TickAdvancesTheElapsedTime : Prop :=
  ∀ s t : State, s.ds.mode = .play → isBcd s.ds.min = true → isBcd s.ds.sec = true → bcdVal s.ds.sec ≤ 59 →
    ¬ (s.ds.min = 0x99#8 ∧ s.ds.sec = 0x59#8) → exec .tick s = .next t →
      isBcd t.ds.min = true ∧ isBcd t.ds.sec = true ∧ bcdVal t.ds.sec ≤ 59 ∧
        60 * bcdVal t.ds.min + bcdVal t.ds.sec = 60 * bcdVal s.ds.min + bcdVal s.ds.sec + 1

/-! ## The Response Generator, the queue, the run step -/

/-- R203, R201, R202, R36: the frame builder makes the frame of the template and of DS, whatever the slot held before. Each
patched byte is the value of its source: TRACK, MIN, SEC, the code of STATE, the packed flags. The flags byte has the
default packing where the configuration keeps it; the code of a state is the configured one, and under a configuration
that the model accepts no two states have one code (notes/assumptions/17, notes/assumptions/18). -/
def Obligations.BuiltFrameIsTheTemplateWithItsPatches : Prop :=
  ∀ (c : Config) (ds : DeviceState),
    (∀ (t : Template) (slot : Memory), 1 ≤ t.bytes.length → t.bytes.length ≤ 32 →
      (∀ p ∈ t.patches, p.1 < t.bytes.length) → BuiltFrom c ds t (buildFrame c ds t slot)) ∧
    (c.flagsByte = .standard →
      (c.flagsOf ds).getLsbD 0 = ds.repeatOn ∧ (c.flagsOf ds).getLsbD 1 = ds.randomOn ∧
      (c.flagsOf ds).getLsbD 2 = ds.scanOn ∧ ((c.flagsOf ds).getLsbD 3 = true ↔ ds.mode = .play) ∧
      (c.flagsOf ds).getLsbD 4 = ds.aux.getLsbD 0 ∧ ∀ b, 5 ≤ b → (c.flagsOf ds).getLsbD b = false) ∧
    (∀ k, c.flagsByte = .custom k → c.flagsOf ds = Config.customFlags k ds) ∧
    (c.stateByte .idle = c.stateCode.idle ∧ c.stateByte .seeking = c.stateCode.seeking ∧
      c.stateByte .playing = c.stateCode.playing ∧ c.stateByte .loading = c.stateCode.loading ∧
      c.stateByte .error = c.stateCode.error ∧
      ∀ (n : Fin 251) (b : Byte), c.stateCode.others[n.val]? = some b → c.stateByte (.other n) = b) ∧
    (c.wf = true → ∀ x y : DevStatus, c.stateByte x = c.stateByte y → x = y)

/-- R204: RESPOND a queues the frames of the action's templates, in list order, as far as there are free slots; the rest
are dropped, counted, and logged, and make the result OVERFLOW. Nothing else is written. -/
def Obligations.RespondQueuesTheResponsesOfTheAction : Prop :=
  ∀ (s : State) (a : Byte), Safe s →
    (a = 0#8 → exec (.respond a) s = .next { s with result := ResultReg.okay }) ∧
    ∀ e, 1 ≤ a.toNat → s.cfg.actionTable[a.toNat - 1]? = some e →
      ∃ (t : State) (new : List Frame) (lost : Nat), exec (.respond a) s = .next t ∧
        queueContents t = queueContents s ++ new ∧
        new.length = min e.responses.length (s.cfg.queueCap - s.queued) ∧ lost = e.responses.length - new.length ∧
        (∀ (j : Nat) (f : Frame), new[j]? = some f → ∃ k tp, e.responses[j]? = some k ∧ s.cfg.templates[k]? = some tp ∧
          BuiltFrom s.cfg s.ds tp f) ∧
        t = { s with slots := t.slots, qw := s.qw + BitVec.ofNat 8 new.length, ovfCount := t.ovfCount,
                     diag := s.diag ++ List.replicate lost (raised .overflow),
                     result := if lost = 0 then ResultReg.okay else raised .overflow } ∧
        t.ovfCount.toNat = min (s.ovfCount.toNat + lost) 0xFFFF

/-- R205: BUILD_STATUS with a response pending queues the status frame of this moment, or drops it when the queue is
full, and clears RESP_PENDING either way; with none pending it does nothing. -/
def Obligations.BuildStatusQueuesTheStatusFrame : Prop :=
  ∀ s : State, Safe s →
    (s.respPending = false → exec .buildStatus s = .next { s with result := ResultReg.okay }) ∧
    (s.respPending = true → s.queued < s.cfg.queueCap →
      ∃ (t : State) (f : Frame) (tp : Template), exec .buildStatus s = .next t ∧
        queueContents t = queueContents s ++ [f] ∧ s.cfg.templates[s.cfg.statusTemplate]? = some tp ∧
        BuiltFrom s.cfg s.ds tp f ∧
        t = { s with slots := t.slots, qw := s.qw + 1#8, respPending := false, result := ResultReg.okay }) ∧
    (s.respPending = true → s.queued = s.cfg.queueCap →
      exec .buildStatus s = .next
        { s with ovfCount := if s.ovfCount = 0xFFFF#16 then s.ovfCount else s.ovfCount + 1#16, respPending := false,
                 diag := s.diag ++ [raised .overflow], result := raised .overflow })

/-- R206: Q_PUSH puts a copy of TXF behind the frames already queued, without a check of it; with the queue full the
frame is dropped, counted up to 0xFFFF and logged, and no slot and no index changes. -/
def Obligations.PushQueuesACopyOrDropsTheNewest : Prop :=
  ∀ s : State, Safe s →
    (s.queued < s.cfg.queueCap →
      ∃ t, exec .qPush s = .next t ∧ queueContents t = queueContents s ++ [s.txf] ∧
        t = { s with slots := t.slots, qw := s.qw + 1#8, result := ResultReg.okay }) ∧
    (s.queued = s.cfg.queueCap →
      exec .qPush s = .next
        { s with ovfCount := if s.ovfCount = 0xFFFF#16 then s.ovfCount else s.ovfCount + 1#16,
                 diag := s.diag ++ [raised .overflow], result := raised .overflow })

/-- R207: Q_POP moves the head of the queue into TXF, and the other frames keep their order; on an empty queue it only
reports EMPTY. -/
def Obligations.PopTakesTheHeadInOrder : Prop :=
  ∀ s : State,
    (s.qw = s.qr → exec .qPop s = .next { s with result := raised .empty }) ∧
    (s.qw ≠ s.qr → ∃ f rest, queueContents s = f :: rest ∧
      exec .qPop s = .next { s with txf := f, qr := s.qr + 1#8, result := ResultReg.okay } ∧
      queueContents { s with txf := f, qr := s.qr + 1#8, result := ResultReg.okay } = rest)

/-- R209: Q_DRAIN pops the head frame and sends it up to three times, each attempt a whole SEND_FRAME; it ends with the
first attempt that is OK, or discards the frame after the third, counting and logging it and leaving the result of the
last attempt. On an empty queue it only reports EMPTY. ATT after a discarded frame is unspecified (U7). -/
def Obligations.DrainSendsTheHeadAtMostThreeTimes : Prop :=
  ∀ s : State,
    (s.qw = s.qr → exec .qDrain s = .next { s with result := raised .empty }) ∧
    (s.qw ≠ s.qr → ∃ f rest u v w, queueContents s = f :: rest ∧
      exec .sendFrame { s with txf := f, qr := s.qr + 1#8, att := 1#2 } = .next u ∧
      exec .sendFrame { u with att := 2#2 } = .next v ∧ exec .sendFrame { v with att := 3#2 } = .next w ∧
      (u.result.code = .ok → exec .qDrain s = .next u) ∧
      (u.result.code ≠ .ok → v.result.code = .ok → exec .qDrain s = .next v) ∧
      (u.result.code ≠ .ok → v.result.code ≠ .ok → w.result.code = .ok → exec .qDrain s = .next w) ∧
      (u.result.code ≠ .ok → v.result.code ≠ .ok → w.result.code ≠ .ok →
        ∃ t, exec .qDrain s = .next t ∧
          t = { w with dropCount := if w.dropCount = 0xFFFF#16 then w.dropCount else w.dropCount + 1#16,
                       diag := w.diag ++ [{ w.result with code := .dropped }], att := t.att, draws := t.draws }))

/-- R215: RUN_STEP with the line DOMINANT is READ_FRAME, and after a good read DISPATCH, APPLY_ACTION and RESPOND of the
action; with the line RECESSIVE and a response pending it is BUILD_STATUS and Q_DRAIN; else it only reports OK. -/
def Obligations.RunStepReceivesElseSends : Prop :=
  ∀ s : State,
    ((s.drv = true ∨ envDrives s.env s.now = true) →
      ∃ u, exec .readFrame s = .next u ∧
        (u.result.code ≠ .ok → exec .runStep s = .next u) ∧
        (u.result.code = .ok → ∃ v w x, exec .dispatch u = .next v ∧ exec (.applyAction v.act) v = .next w ∧
          exec (.respond v.act) w = .next x ∧ exec .runStep s = .next x)) ∧
    (s.drv = false → envDrives s.env s.now = false →
      ((s.respPending = true ∨ s.qw ≠ s.qr) →
        ∃ u v, exec .buildStatus s = .next u ∧ exec .qDrain u = .next v ∧ exec .runStep s = .next v) ∧
      (s.respPending = false → s.qw = s.qr → exec .runStep s = .next { s with result := ResultReg.okay }))

/-! ## The host port -/

/-- R216: NOP writes RESULT and nothing else. -/
def Obligations.NopOnlyReportsOk : Prop :=
  ∀ s : State, exec .nop s = .next { s with result := ResultReg.okay }

/-- R97 (c), R96, R238: a reserved code, and an operation with an illegal operand, ends with BADOP, touches nothing else,
and emits no DIAG event; RD_REG also puts 0 on VAL (notes/assumptions/11). -/
def Obligations.ReservedCodesAndIllegalOperandsOnlyReportBadOp : Prop :=
  ∀ s : State,
    (∀ i ∈ [Instr.reserved1A, .reserved1B, .reserved1C, .reserved1D, .reserved1E, .reserved1F],
      exec i s = .next { s with result := raised .badop }) ∧
    (∀ n v, n.toNat = 0 ∨ 12 < n.toNat → exec (.txField n v) s = .next { s with result := raised .badop } ∧
      exec (.rxField n) s = .next { s with result := raised .badop }) ∧
    (∀ a : Byte, s.cfg.actionTable.length < a.toNat →
      exec (.applyAction a) s = .next { s with result := raised .badop } ∧
      exec (.respond a) s = .next { s with result := raised .badop }) ∧
    (∀ sel v, 4 < sel.toNat → sel.toNat < 32 → exec (.wrTxf sel v) s = .next { s with result := raised .badop }) ∧
    (∀ sel, (12 < sel.toNat ∧ sel.toNat < 16) ∨ (21 < sel.toNat ∧ sel.toNat < 32) ∨ 72 < sel.toNat →
      exec (.rdReg sel) s = .next { s with val := 0#12, result := raised .badop })

/-- R96: WR_TXF writes the one field of TXF that the selector names, and no other byte of the payload. -/
def Obligations.WriteTxfWritesOneField : Prop :=
  ∀ (s : State) (v : BitVec 12),
    exec (.wrTxf 0#6 v) s = .next { s with txf.unicast := v.getLsbD 0, result := ResultReg.okay } ∧
    exec (.wrTxf 1#6 v) s = .next { s with txf.sender := v, result := ResultReg.okay } ∧
    exec (.wrTxf 2#6 v) s = .next { s with txf.receiver := v, result := ResultReg.okay } ∧
    exec (.wrTxf 3#6 v) s = .next { s with txf.control := v.setWidth 4, result := ResultReg.okay } ∧
    exec (.wrTxf 4#6 v) s = .next { s with txf.length := v.setWidth 6, result := ResultReg.okay } ∧
    ∀ i, i < 32 → ∃ t, exec (.wrTxf (BitVec.ofNat 6 (32 + i)) v) s = .next t ∧
      t = { s with txf.pay := t.txf.pay, result := ResultReg.okay } ∧ t.txf.pay.read i = v.setWidth 8 ∧
      ∀ k, k ≠ i → t.txf.pay.read k = s.txf.pay.read k

/-- R96, R92, R93: RD_REG puts the register that the selector names on VAL, zero-extended or cut to its low 12 bits, and
writes nothing but VAL and RESULT; the codes and positions of RESULT have the numbers of R92 and R93. It shows the
RESULT of the operation before it, and then writes its own (notes/assumptions/7); the fields of RXF whatever VALID is
(notes/assumptions/13), and payload bytes beyond LENGTH as they stand (notes/assumptions/12). -/
def Obligations.ReadRegisterShowsEveryListedRegister : Prop :=
  ∀ (s : State) (sel : Nat) (v : Nat),
    ((sel, v) ∈
        [(2, s.result.index.toNat), (3, s.act.toNat),
         (4, s.dur), (5, s.par.toNat), (6, s.masked.toNat), (7, s.tickLatch.toNat), (8, s.respPending.toNat),
         (9, s.qw.toNat), (10, s.qr.toNat), (11, s.ovfCount.toNat), (12, s.dropCount.toNat),
         (16, s.rxf.valid.toNat), (17, s.rxf.frame.unicast.toNat), (18, s.rxf.frame.sender.toNat),
         (19, s.rxf.frame.receiver.toNat), (20, s.rxf.frame.control.toNat), (21, s.rxf.frame.length.toNat),
         (64, if s.ds.mode = .play then 1 else 0), (65, s.ds.track.toNat), (66, s.ds.min.toNat),
         (67, s.ds.sec.toNat), (68, (s.cfg.stateByte s.ds.status).toNat), (69, s.ds.repeatOn.toNat),
         (70, s.ds.randomOn.toNat), (71, s.ds.scanOn.toNat), (72, s.ds.aux.toNat)] ∨
      (∃ i, i < 32 ∧ sel = 32 + i ∧ v = (s.rxf.frame.pay.read i).toNat) ∨
      (sel = 0 ∧ (s.result.code, v) ∈
        [(ResCode.ok, 0), (.busy, 1), (.nak, 2), (.startShort, 3), (.startLong, 4), (.desync, 5), (.parity, 6),
         (.length, 7), (.badlen, 8), (.badop, 9), (.empty, 10), (.overflow, 11), (.dropped, 12)]) ∨
      (sel = 1 ∧ (s.result.field, v) ∈
        [(FieldPos.none, 0), (.start, 1), (.mode, 2), (.sender, 3), (.receiver, 4), (.addrAck, 5), (.control, 6),
         (.controlAck, 7), (.length, 8), (.lengthAck, 9), (.data, 10), (.dataAck, 11)])) →
    exec (.rdReg (BitVec.ofNat 8 sel)) s = .next { s with val := BitVec.ofNat 12 v, result := ResultReg.okay }

/-! ## The rows of the wire -/

/-- R80, R85, R110, R111, R117, R118: the symbols of the wire are the pulses of the codec: a bit, a start bit, and the
ack slot on either side. That a row of the wire is executed by transmitting it, and ends as R109 says, is the model's
choice (notes/assumptions/5). -/
def Obligations.WireSymbolsAreTheCodecPulses : Prop :=
  ∀ s : State, s.cfg.wf = true →
    exec .symbol1 s = .next
      { s with drv := false, drvLog := (s.now + s.cfg.t1Driven, false) :: (s.now, true) :: s.drvLog,
               now := s.now + s.cfg.tBit, result := ResultReg.okay } ∧
    exec .symbol0 s = .next
      { s with drv := false, drvLog := (s.now + s.cfg.t0Driven, false) :: (s.now, true) :: s.drvLog,
               now := s.now + s.cfg.tBit, result := ResultReg.okay } ∧
    exec .symbolStart s = .next
      { s with drv := false, drvLog := (s.now + s.cfg.tStartDriven, false) :: (s.now, true) :: s.drvLog,
               now := s.now + s.cfg.tStartDriven + s.cfg.tStartFloat, result := ResultReg.okay } ∧
    (∃ t, exec (.ackSlot .sender) s = .next t ∧ exec .ackRead s = .next t) ∧
    (∃ t, exec (.ackSlot .receiver) s = .next t ∧ exec .ackSend s = .next t) ∧
    (∀ g, s.drv = false → g < s.cfg.rxTimeout → QuietFrom s.env s.now (s.now + g) →
      DrivenFrom s.env (s.now + g) (s.now + g + s.cfg.t1Driven) →
      QuietFrom s.env (s.now + g + s.cfg.t1Driven) (s.now + g + s.cfg.t0Driven + 1) →
      exec (.ackSlot .receiver) s = .next
        { s with drv := false, drvLog := (s.now + g + s.cfg.t0Driven, false) :: (s.now + g, true) :: s.drvLog,
                 now := s.now + g + s.cfg.t0Driven, result := ResultReg.okay })

/-- R82, R83, R80, R117: the head of a frame puts its symbols on the line, from the start bit to the length group. A
broadcast head always completes, a unicast one when its three slots are acknowledged, each held for at most `T_MAXBIT`; a
slot held beyond the bit period delays what follows. At the first slot that is left short, held too long or never released
it stops and reports NAK there; an illegal length is refused. How the row ends is the model's choice
(notes/assumptions/5). -/
def Obligations.FrameHeadsAreSentSymbolBySymbol : Prop :=
  ∀ (s : State) (unicast : Bool) (snd rcv : Addr) (ctl : BitVec 4) (len : BitVec 8) (i : Instr) (slots : List Place)
      (late : Nat → Nat), s.cfg.wf = true →
    i = (if unicast then .frameHeadUnicast snd rcv ctl len else .frameHeadBroadcast snd rcv ctl len) →
    slots = (if unicast then headAckSlots else []) →
    (1 ≤ len.toNat → len.toNat ≤ 32 → SlotsHeld s.cfg s.env s.now slots late →
      ∃ t, exec i s = .next t ∧
        t = { s with drv := false, drvLog := t.drvLog, seq := .idle, shift := t.shift, bitcnt := t.bitcnt,
                     dur := t.dur, now := s.now + (s.cfg.tStartDriven + s.cfg.tStartFloat) +
                       (if unicast then 44 else 41) * s.cfg.tBit + (slots.map (fun p => late p.1)).sum,
                     result := ResultReg.okay } ∧
        ∀ u, s.now ≤ u → drvAt t.drvLog u =
          envDrives (heldWave s.cfg s.now (held late (headSymbols s.cfg unicast snd rcv ctl len))) u) ∧
    (1 ≤ len.toNat → len.toNat ≤ 32 →
      ∀ (pre post : List Place) (k d : Nat) (f : FieldPos) (x : BitVec 6), slots = pre ++ (k, f, x) :: post →
      SlotsHeld s.cfg s.env s.now pre late → UnackedFor s.cfg s.env (heldTime s.cfg late s.now k) d →
      ∃ t, exec i s = .next t ∧
        t = { s with drv := false, drvLog := t.drvLog, seq := .idle, shift := t.shift, bitcnt := t.bitcnt, idx := t.idx,
                     wfr := t.wfr, draws := t.draws, dur := d,
                     now := heldTime s.cfg late s.now k + max d s.cfg.tBit,
                     result := { code := .nak, field := f, index := x },
                     diag := s.diag ++ [{ code := .nak, field := f, index := x }] } ∧
        ∀ u, s.now ≤ u → drvAt t.drvLog u =
          envDrives (heldWave s.cfg s.now
            (held late ((headSymbols s.cfg unicast snd rcv ctl len).take (k + 1)))) u) ∧
    (len.toNat = 0 ∨ 32 < len.toNat →
      exec i s = .next { s with result := raised .badlen, diag := s.diag ++ [raised .badlen] })

/-- R83, R80, R117: a data group puts the byte, its parity bit and, in a unicast frame, its ack slot on the line. A
broadcast group always completes, a unicast one when its slot is acknowledged, also by a pulse that outlasts the bit period;
when its slot is left short, held too long or never released it ends with NAK there, at index 0. How the row ends is the
model's choice (notes/assumptions/5). -/
def Obligations.DataGroupsAreSentSymbolBySymbol : Prop :=
  ∀ (s : State) (b : Byte) (n : Nat), s.cfg.wf = true → n = s.now + 9 * s.cfg.tBit →
    (∃ t, exec (.dataGroupBroadcast b) s = .next t ∧
      t = { s with drv := false, drvLog := t.drvLog, seq := .idle, shift := t.shift, bitcnt := t.bitcnt, now := n,
                   result := ResultReg.okay } ∧
      ∀ u, s.now ≤ u → drvAt t.drvLog u = envDrives (waveOf s.cfg s.now (groupSymbols false b)) u) ∧
    (∀ d, AckedFor s.cfg s.env n d →
      ∃ t, exec (.dataGroupUnicast b) s = .next t ∧
        t = { s with drv := false, drvLog := t.drvLog, seq := .idle, shift := t.shift, bitcnt := t.bitcnt, dur := d,
                     now := n + max d s.cfg.tBit, result := ResultReg.okay } ∧
        ∀ u, s.now ≤ u → drvAt t.drvLog u = envDrives (waveOf s.cfg s.now (groupSymbols true b)) u) ∧
    ∀ d, UnackedFor s.cfg s.env n d →
      ∃ t, exec (.dataGroupUnicast b) s = .next t ∧
        t = { s with drv := false, drvLog := t.drvLog, seq := .idle, shift := t.shift, bitcnt := t.bitcnt, idx := t.idx,
                     wfr := t.wfr, draws := t.draws, dur := d, now := n + max d s.cfg.tBit,
                     result := { code := .nak, field := .dataAck, index := 0#6 },
                     diag := s.diag ++ [{ code := .nak, field := .dataAck, index := 0#6 }] } ∧
        ∀ u, s.now ≤ u → drvAt t.drvLog u = envDrives (waveOf s.cfg s.now (groupSymbols true b)) u

/-! ## Rules about the whole machine -/

/-- R21 to R25, R28 to R33, R39 to R42: each register has the writers that the spec names, and no other instruction changes
it; RESULT, which every operation writes, becomes an error only by those that can end in one. The arrivals to come lose only
those that came while a frame operation ran (R141, R241; notes/assumptions/19). Where a row of the wire is
among the writers the choice is notes/assumptions/5; that the frame operations do not write VAL is notes/assumptions/6,
that an aborted operation frees the scratch registers is notes/assumptions/9. -/
def Obligations.RegistersHaveOnlyTheirNamedWriters : Prop :=
  ∀ (i : Instr) (s t : State), exec i s = .next t →
    (t.cfg = s.cfg ∧ t.env = s.env ∧ t.inputs = s.inputs) ∧
    (t.arrivals ≠ s.arrivals → i ∈ [Instr.sendFrame, .readFrame, .qDrain, .runStep] ∧
      t.arrivals = s.arrivals.filter (fun a => decide (t.now ≤ a))) ∧
    (t.rxf ≠ s.rxf → i ∈ [Instr.readFrame, .runStep, .reset]) ∧
    (t.txf ≠ s.txf → i ∈ [Instr.qPop, .qDrain, .runStep, .reset] ∨ ∃ sel v, i = .wrTxf sel v) ∧
    (t.ds ≠ s.ds → i ∈ [Instr.tick, .unmask false, .sendFrame, .readFrame, .qDrain, .runStep, .reset] ∨
      ∃ a, i = .applyAction a) ∧
    (t.respPending ≠ s.respPending →
      i ∈ [Instr.tick, .unmask false, .sendFrame, .readFrame, .buildStatus, .qDrain, .runStep, .reset] ∨
      ∃ a, i = .applyAction a) ∧
    (t.slots ≠ s.slots ∨ t.qw ≠ s.qw ∨ t.ovfCount ≠ s.ovfCount →
      i ∈ [Instr.buildStatus, .qPush, .runStep, .reset] ∨ ∃ a, i = .respond a) ∧
    (t.qr ≠ s.qr → i ∈ [Instr.qPop, .qDrain, .runStep, .reset]) ∧
    (t.dropCount ≠ s.dropCount ∨ t.att ≠ s.att → i ∈ [Instr.qDrain, .runStep, .reset]) ∧
    (t.act ≠ s.act → i ∈ [Instr.dispatch, .runStep, .reset]) ∧
    (t.val ≠ s.val → i ∈ [Instr.rxBit, .ackRead, .mask, .busFree, .dispatch, .runStep, .reset, .ackSlot .sender] ∨
      (∃ n, i = .rxField n) ∨ ∃ sel, i = .rdReg sel) ∧
    (t.par ≠ s.par → i ∈ [Instr.rxBit, .readFrame, .runStep, .reset] ∨ ∃ n, i = .rxField n) ∧
    (t.masked ≠ s.masked → i ∈ [Instr.mask, .reset] ∨ ∃ p, i = .unmask p) ∧
    (t.tickLatch ≠ s.tickLatch →
      i ∈ [Instr.unmask false, .sendFrame, .readFrame, .qDrain, .runStep, .reset]) ∧
    (t.timerBase ≠ s.timerBase → i = .reset) ∧
    (t.now ≠ s.now →
      i ∈ [Instr.txStart, .rxBit, .rxStart, .ackRead, .ackSend, .busFree, .sendFrame, .readFrame, .qDrain, .runStep] ∨
      (∃ v, i = .txBit v) ∨ (∃ n v, i = .txField n v) ∨ (∃ n, i = .rxField n) ∨ onWire i = true) ∧
    (t.drv ≠ s.drv ∨ t.drvLog ≠ s.drvLog →
      i ∈ [Instr.txStart, .rxBit, .rxStart, .ackRead, .ackSend, .sendFrame, .readFrame, .qDrain, .runStep, .reset] ∨
      (∃ v, i = .txBit v) ∨ (∃ n v, i = .txField n v) ∨ (∃ n, i = .rxField n) ∨ onWire i = true) ∧
    (t.seq ≠ s.seq → i ∈ [Instr.sendFrame, .readFrame, .qDrain, .runStep, .reset] ∨ onWireGroup i = true) ∧
    (t.dur ≠ s.dur →
      i ∈ [Instr.rxBit, .rxStart, .ackRead, .sendFrame, .readFrame, .qDrain, .runStep, .reset, .ackSlot .sender] ∨
      (∃ n, i = .rxField n) ∨ (onWireGroup i = true ∧ groupHasSlots i = true)) ∧
    (t.shift ≠ s.shift ∨ t.bitcnt ≠ s.bitcnt →
      i ∈ [Instr.rxBit, .rxStart, .ackSend, .sendFrame, .readFrame, .qDrain, .runStep, .reset, .ackSlot .receiver] ∨
      (∃ n v, i = .txField n v) ∨ (∃ n, i = .rxField n) ∨ onWireGroup i = true) ∧
    (t.idx ≠ s.idx ∨ t.wfr ≠ s.wfr →
      i ∈ [Instr.rxBit, .rxStart, .ackSend, .sendFrame, .readFrame, .qDrain, .runStep, .reset, .ackSlot .receiver] ∨
      (∃ n, i = .rxField n) ∨ (onWireGroup i = true ∧ groupHasSlots i = true)) ∧
    (t.result.code ≠ .ok →
      i ∈ [Instr.rxBit, .rxStart, .ackSend, .busFree, .sendFrame, .readFrame, .buildStatus, .qPush, .qPop, .qDrain,
        .runStep, .reserved1A, .reserved1B, .reserved1C, .reserved1D, .reserved1E, .reserved1F, .ackSlot .receiver] ∨
      (∃ n v, i = .txField n v) ∨ (∃ n, i = .rxField n) ∨ (∃ a, i = .applyAction a) ∨ (∃ a, i = .respond a) ∨
      (∃ sel v, i = .wrTxf sel v) ∨ (∃ sel, i = .rdReg sel) ∨ (∃ d, i = .dataGroupUnicast d) ∨
      (∃ snd rcv ctl len, i = .frameHeadUnicast snd rcv ctl len) ∨
      ∃ snd rcv ctl len, i = .frameHeadBroadcast snd rcv ctl len) ∧
    (t.result.code = .ok → t.result = ResultReg.okay)

/-- R94, R230, R246, R252: an operation that ends with a code other than OK, EMPTY and BADOP emits that result as one
DIAG event, and any other operation none; RESPOND, Q_DRAIN and RUN_STEP, which are made of several, only append. That
a BUSY answer of BUS_FREE is such an event is notes/assumptions/8. -/
def Obligations.EveryErrorIsOneDiagEvent : Prop :=
  ∀ (i : Instr) (s t : State), exec i s = .next t →
    (i ∉ [Instr.qDrain, .runStep] → (∀ a, i ≠ .respond a) →
      t.diag = if t.result.code = .ok ∨ t.result.code = .empty ∨ t.result.code = .badop then s.diag
        else s.diag ++ [t.result]) ∧
    ∃ new, t.diag = s.diag ++ new
end

