-- ==== Sys2Proof/Laws/Boundary.lean ====
section
/-! SUPPORT. What the block does between operations, said once: how much of an idle stretch passes before an arrival
(R240, R255). -/

namespace Sys2Proof.Machine

/-- A running minimum, characterised. -/
theorem foldl_min_eq (f : Nat → Nat) (l : List Nat) (n m : Nat) (hn : m ≤ n) (hl : ∀ t ∈ l, m ≤ f t)
    (h : m = n ∨ ∃ t ∈ l, f t = m) : l.foldl (fun k t => min k (f t)) n = m := by
  induction l generalizing n with
  | nil => rcases h with rfl | ⟨t, ht, -⟩
           · rfl
           · cases ht
  | cons x l ih =>
    have hx := hl x (by simp)
    refine ih (min n (f x)) (by omega) (fun t ht => hl t (List.mem_cons_of_mem _ ht)) ?_
    rcases h with rfl | ⟨t, ht, rfl⟩
    · exact .inl (by omega)
    · rcases List.mem_cons.mp ht with rfl | ht
      · exact .inl (by omega)
      · exact .inr ⟨t, ht, rfl⟩

/-- An idle stretch in which nothing arrives passes whole. -/
theorem idleTicks_undisturbed {s : State} {n : Nat} (h : ∀ t ∈ s.arrivals, s.now + n ≤ t) : s.idleTicks n = n :=
  foldl_min_eq _ _ _ _ le_rfl (fun t ht => by have := h t ht; omega) (.inl rfl)

/-- An idle stretch ends at its first arrival. -/
theorem idleTicks_arrival {s : State} {n a : Nat} (ha : a ∈ s.arrivals) (hn : a ≤ s.now + n)
    (h : ∀ t ∈ s.arrivals, a ≤ t) : s.idleTicks n = a - s.now :=
  foldl_min_eq _ _ _ _ (by omega) (fun t ht => by have := h t ht; omega) (.inr ⟨a, ha, rfl⟩)

theorem idleTicks_le (s : State) (n : Nat) : s.idleTicks n ≤ n := by
  unfold State.idleTicks
  generalize s.arrivals = l
  induction l generalizing n with
  | nil => exact le_rfl
  | cons x l ih => exact le_trans (ih _) (Nat.min_le_left _ _)

/-- The next thing to do is one of these, and it leaves every other part of the state alone. -/
theorem nextTodo_cases (s : State) :
    (s.arrivalDue = true ∧ nextTodo s = .serve (takeArrival s)) ∨
    (s.arrivalDue = false ∧ s.inputs = [] ∧ nextTodo s = .wait 1 s) ∨
    (∃ rest, s.arrivalDue = false ∧ s.inputs = .tick :: rest ∧ nextTodo s = .serve { s with inputs := rest }) ∨
    (∃ n rest, s.arrivalDue = false ∧ s.inputs = .idle n :: rest ∧
      nextTodo s = .wait (s.idleTicks n) { s with inputs := idleRest (s.idleTicks n) n rest }) ∨
    ∃ w rest, s.arrivalDue = false ∧ s.inputs = .op w :: rest ∧ nextTodo s = .run w { s with inputs := rest } := by
  unfold nextTodo
  cases hd : s.arrivalDue with
  | true => exact .inl ⟨rfl, rfl⟩
  | false =>
    match hi : s.inputs with
    | [] => exact .inr (.inl ⟨rfl, rfl, rfl⟩)
    | .tick :: rest => exact .inr (.inr (.inl ⟨rest, rfl, rfl, rfl⟩))
    | .idle n :: rest => exact .inr (.inr (.inr (.inl ⟨n, rest, rfl, rfl, rfl⟩)))
    | .op w :: rest => exact .inr (.inr (.inr (.inr ⟨w, rest, rfl, rfl, rfl⟩)))

end Sys2Proof.Machine
end

