-- ==== Sys2Proof/Laws/State.lean ====
section
/-! SUPPORT. What each named update does to each field of State: one lemma a field, true by rfl, so that no proof has to
unfold a record update. -/

namespace Sys2Proof.Machine

@[simp] theorem setDrv_cfg (b : Bool) (s : State) : (setDrv b s).cfg = s.cfg := rfl
@[simp] theorem setDrv_rxf (b : Bool) (s : State) : (setDrv b s).rxf = s.rxf := rfl
@[simp] theorem setDrv_txf (b : Bool) (s : State) : (setDrv b s).txf = s.txf := rfl
@[simp] theorem setDrv_shift (b : Bool) (s : State) : (setDrv b s).shift = s.shift := rfl
@[simp] theorem setDrv_bitcnt (b : Bool) (s : State) : (setDrv b s).bitcnt = s.bitcnt := rfl
@[simp] theorem setDrv_dur (b : Bool) (s : State) : (setDrv b s).dur = s.dur := rfl
@[simp] theorem setDrv_idx (b : Bool) (s : State) : (setDrv b s).idx = s.idx := rfl
@[simp] theorem setDrv_att (b : Bool) (s : State) : (setDrv b s).att = s.att := rfl
@[simp] theorem setDrv_wfr (b : Bool) (s : State) : (setDrv b s).wfr = s.wfr := rfl
@[simp] theorem setDrv_par (b : Bool) (s : State) : (setDrv b s).par = s.par := rfl
@[simp] theorem setDrv_masked (b : Bool) (s : State) : (setDrv b s).masked = s.masked := rfl
@[simp] theorem setDrv_tickLatch (b : Bool) (s : State) : (setDrv b s).tickLatch = s.tickLatch := rfl
@[simp] theorem setDrv_respPending (b : Bool) (s : State) : (setDrv b s).respPending = s.respPending := rfl
@[simp] theorem setDrv_drv (b : Bool) (s : State) : (setDrv b s).drv = b := rfl
@[simp] theorem setDrv_timerBase (b : Bool) (s : State) : (setDrv b s).timerBase = s.timerBase := rfl
@[simp] theorem setDrv_seq (b : Bool) (s : State) : (setDrv b s).seq = s.seq := rfl
@[simp] theorem setDrv_result (b : Bool) (s : State) : (setDrv b s).result = s.result := rfl
@[simp] theorem setDrv_act (b : Bool) (s : State) : (setDrv b s).act = s.act := rfl
@[simp] theorem setDrv_val (b : Bool) (s : State) : (setDrv b s).val = s.val := rfl
@[simp] theorem setDrv_ds (b : Bool) (s : State) : (setDrv b s).ds = s.ds := rfl
@[simp] theorem setDrv_slots (b : Bool) (s : State) : (setDrv b s).slots = s.slots := rfl
@[simp] theorem setDrv_qw (b : Bool) (s : State) : (setDrv b s).qw = s.qw := rfl
@[simp] theorem setDrv_qr (b : Bool) (s : State) : (setDrv b s).qr = s.qr := rfl
@[simp] theorem setDrv_ovfCount (b : Bool) (s : State) : (setDrv b s).ovfCount = s.ovfCount := rfl
@[simp] theorem setDrv_dropCount (b : Bool) (s : State) : (setDrv b s).dropCount = s.dropCount := rfl
@[simp] theorem setDrv_now (b : Bool) (s : State) : (setDrv b s).now = s.now := rfl
@[simp] theorem setDrv_env (b : Bool) (s : State) : (setDrv b s).env = s.env := rfl
@[simp] theorem setDrv_arrivals (b : Bool) (s : State) : (setDrv b s).arrivals = s.arrivals := rfl
@[simp] theorem setDrv_inputs (b : Bool) (s : State) : (setDrv b s).inputs = s.inputs := rfl
@[simp] theorem setDrv_diag (b : Bool) (s : State) : (setDrv b s).diag = s.diag := rfl
@[simp] theorem setDrv_drvLog (b : Bool) (s : State) : (setDrv b s).drvLog = (s.now, b) :: s.drvLog := rfl
@[simp] theorem setDrv_draws (b : Bool) (s : State) : (setDrv b s).draws = s.draws := rfl

@[simp] theorem waitTicks_cfg (n : Nat) (s : State) : (waitTicks n s).cfg = s.cfg := rfl
@[simp] theorem waitTicks_rxf (n : Nat) (s : State) : (waitTicks n s).rxf = s.rxf := rfl
@[simp] theorem waitTicks_txf (n : Nat) (s : State) : (waitTicks n s).txf = s.txf := rfl
@[simp] theorem waitTicks_shift (n : Nat) (s : State) : (waitTicks n s).shift = s.shift := rfl
@[simp] theorem waitTicks_bitcnt (n : Nat) (s : State) : (waitTicks n s).bitcnt = s.bitcnt := rfl
@[simp] theorem waitTicks_dur (n : Nat) (s : State) : (waitTicks n s).dur = s.dur := rfl
@[simp] theorem waitTicks_idx (n : Nat) (s : State) : (waitTicks n s).idx = s.idx := rfl
@[simp] theorem waitTicks_att (n : Nat) (s : State) : (waitTicks n s).att = s.att := rfl
@[simp] theorem waitTicks_wfr (n : Nat) (s : State) : (waitTicks n s).wfr = s.wfr := rfl
@[simp] theorem waitTicks_par (n : Nat) (s : State) : (waitTicks n s).par = s.par := rfl
@[simp] theorem waitTicks_masked (n : Nat) (s : State) : (waitTicks n s).masked = s.masked := rfl
@[simp] theorem waitTicks_tickLatch (n : Nat) (s : State) : (waitTicks n s).tickLatch = s.tickLatch := rfl
@[simp] theorem waitTicks_respPending (n : Nat) (s : State) : (waitTicks n s).respPending = s.respPending := rfl
@[simp] theorem waitTicks_drv (n : Nat) (s : State) : (waitTicks n s).drv = s.drv := rfl
@[simp] theorem waitTicks_timerBase (n : Nat) (s : State) : (waitTicks n s).timerBase = s.timerBase := rfl
@[simp] theorem waitTicks_seq (n : Nat) (s : State) : (waitTicks n s).seq = s.seq := rfl
@[simp] theorem waitTicks_result (n : Nat) (s : State) : (waitTicks n s).result = s.result := rfl
@[simp] theorem waitTicks_act (n : Nat) (s : State) : (waitTicks n s).act = s.act := rfl
@[simp] theorem waitTicks_val (n : Nat) (s : State) : (waitTicks n s).val = s.val := rfl
@[simp] theorem waitTicks_ds (n : Nat) (s : State) : (waitTicks n s).ds = s.ds := rfl
@[simp] theorem waitTicks_slots (n : Nat) (s : State) : (waitTicks n s).slots = s.slots := rfl
@[simp] theorem waitTicks_qw (n : Nat) (s : State) : (waitTicks n s).qw = s.qw := rfl
@[simp] theorem waitTicks_qr (n : Nat) (s : State) : (waitTicks n s).qr = s.qr := rfl
@[simp] theorem waitTicks_ovfCount (n : Nat) (s : State) : (waitTicks n s).ovfCount = s.ovfCount := rfl
@[simp] theorem waitTicks_dropCount (n : Nat) (s : State) : (waitTicks n s).dropCount = s.dropCount := rfl
@[simp] theorem waitTicks_now (n : Nat) (s : State) : (waitTicks n s).now = s.now + n := rfl
@[simp] theorem waitTicks_env (n : Nat) (s : State) : (waitTicks n s).env = s.env := rfl
@[simp] theorem waitTicks_arrivals (n : Nat) (s : State) : (waitTicks n s).arrivals = s.arrivals := rfl
@[simp] theorem waitTicks_inputs (n : Nat) (s : State) : (waitTicks n s).inputs = s.inputs := rfl
@[simp] theorem waitTicks_diag (n : Nat) (s : State) : (waitTicks n s).diag = s.diag := rfl
@[simp] theorem waitTicks_drvLog (n : Nat) (s : State) : (waitTicks n s).drvLog = s.drvLog := rfl
@[simp] theorem waitTicks_draws (n : Nat) (s : State) : (waitTicks n s).draws = s.draws := rfl

@[simp] theorem setResult_cfg (r : ResultReg) (s : State) : (setResult r s).cfg = s.cfg := rfl
@[simp] theorem setResult_rxf (r : ResultReg) (s : State) : (setResult r s).rxf = s.rxf := rfl
@[simp] theorem setResult_txf (r : ResultReg) (s : State) : (setResult r s).txf = s.txf := rfl
@[simp] theorem setResult_shift (r : ResultReg) (s : State) : (setResult r s).shift = s.shift := rfl
@[simp] theorem setResult_bitcnt (r : ResultReg) (s : State) : (setResult r s).bitcnt = s.bitcnt := rfl
@[simp] theorem setResult_dur (r : ResultReg) (s : State) : (setResult r s).dur = s.dur := rfl
@[simp] theorem setResult_idx (r : ResultReg) (s : State) : (setResult r s).idx = s.idx := rfl
@[simp] theorem setResult_att (r : ResultReg) (s : State) : (setResult r s).att = s.att := rfl
@[simp] theorem setResult_wfr (r : ResultReg) (s : State) : (setResult r s).wfr = s.wfr := rfl
@[simp] theorem setResult_par (r : ResultReg) (s : State) : (setResult r s).par = s.par := rfl
@[simp] theorem setResult_masked (r : ResultReg) (s : State) : (setResult r s).masked = s.masked := rfl
@[simp] theorem setResult_tickLatch (r : ResultReg) (s : State) : (setResult r s).tickLatch = s.tickLatch := rfl
@[simp] theorem setResult_respPending (r : ResultReg) (s : State) : (setResult r s).respPending = s.respPending := rfl
@[simp] theorem setResult_drv (r : ResultReg) (s : State) : (setResult r s).drv = s.drv := rfl
@[simp] theorem setResult_timerBase (r : ResultReg) (s : State) : (setResult r s).timerBase = s.timerBase := rfl
@[simp] theorem setResult_seq (r : ResultReg) (s : State) : (setResult r s).seq = s.seq := rfl
@[simp] theorem setResult_result (r : ResultReg) (s : State) : (setResult r s).result = r := rfl
@[simp] theorem setResult_act (r : ResultReg) (s : State) : (setResult r s).act = s.act := rfl
@[simp] theorem setResult_val (r : ResultReg) (s : State) : (setResult r s).val = s.val := rfl
@[simp] theorem setResult_ds (r : ResultReg) (s : State) : (setResult r s).ds = s.ds := rfl
@[simp] theorem setResult_slots (r : ResultReg) (s : State) : (setResult r s).slots = s.slots := rfl
@[simp] theorem setResult_qw (r : ResultReg) (s : State) : (setResult r s).qw = s.qw := rfl
@[simp] theorem setResult_qr (r : ResultReg) (s : State) : (setResult r s).qr = s.qr := rfl
@[simp] theorem setResult_ovfCount (r : ResultReg) (s : State) : (setResult r s).ovfCount = s.ovfCount := rfl
@[simp] theorem setResult_dropCount (r : ResultReg) (s : State) : (setResult r s).dropCount = s.dropCount := rfl
@[simp] theorem setResult_now (r : ResultReg) (s : State) : (setResult r s).now = s.now := rfl
@[simp] theorem setResult_env (r : ResultReg) (s : State) : (setResult r s).env = s.env := rfl
@[simp] theorem setResult_arrivals (r : ResultReg) (s : State) : (setResult r s).arrivals = s.arrivals := rfl
@[simp] theorem setResult_inputs (r : ResultReg) (s : State) : (setResult r s).inputs = s.inputs := rfl
@[simp] theorem setResult_diag (r : ResultReg) (s : State) : (setResult r s).diag = s.diag := rfl
@[simp] theorem setResult_drvLog (r : ResultReg) (s : State) : (setResult r s).drvLog = s.drvLog := rfl
@[simp] theorem setResult_draws (r : ResultReg) (s : State) : (setResult r s).draws = s.draws := rfl

@[simp] theorem emit_cfg (r : ResultReg) (s : State) : (emit r s).cfg = s.cfg := rfl
@[simp] theorem emit_rxf (r : ResultReg) (s : State) : (emit r s).rxf = s.rxf := rfl
@[simp] theorem emit_txf (r : ResultReg) (s : State) : (emit r s).txf = s.txf := rfl
@[simp] theorem emit_shift (r : ResultReg) (s : State) : (emit r s).shift = s.shift := rfl
@[simp] theorem emit_bitcnt (r : ResultReg) (s : State) : (emit r s).bitcnt = s.bitcnt := rfl
@[simp] theorem emit_dur (r : ResultReg) (s : State) : (emit r s).dur = s.dur := rfl
@[simp] theorem emit_idx (r : ResultReg) (s : State) : (emit r s).idx = s.idx := rfl
@[simp] theorem emit_att (r : ResultReg) (s : State) : (emit r s).att = s.att := rfl
@[simp] theorem emit_wfr (r : ResultReg) (s : State) : (emit r s).wfr = s.wfr := rfl
@[simp] theorem emit_par (r : ResultReg) (s : State) : (emit r s).par = s.par := rfl
@[simp] theorem emit_masked (r : ResultReg) (s : State) : (emit r s).masked = s.masked := rfl
@[simp] theorem emit_tickLatch (r : ResultReg) (s : State) : (emit r s).tickLatch = s.tickLatch := rfl
@[simp] theorem emit_respPending (r : ResultReg) (s : State) : (emit r s).respPending = s.respPending := rfl
@[simp] theorem emit_drv (r : ResultReg) (s : State) : (emit r s).drv = s.drv := rfl
@[simp] theorem emit_timerBase (r : ResultReg) (s : State) : (emit r s).timerBase = s.timerBase := rfl
@[simp] theorem emit_seq (r : ResultReg) (s : State) : (emit r s).seq = s.seq := rfl
@[simp] theorem emit_result (r : ResultReg) (s : State) : (emit r s).result = s.result := rfl
@[simp] theorem emit_act (r : ResultReg) (s : State) : (emit r s).act = s.act := rfl
@[simp] theorem emit_val (r : ResultReg) (s : State) : (emit r s).val = s.val := rfl
@[simp] theorem emit_ds (r : ResultReg) (s : State) : (emit r s).ds = s.ds := rfl
@[simp] theorem emit_slots (r : ResultReg) (s : State) : (emit r s).slots = s.slots := rfl
@[simp] theorem emit_qw (r : ResultReg) (s : State) : (emit r s).qw = s.qw := rfl
@[simp] theorem emit_qr (r : ResultReg) (s : State) : (emit r s).qr = s.qr := rfl
@[simp] theorem emit_ovfCount (r : ResultReg) (s : State) : (emit r s).ovfCount = s.ovfCount := rfl
@[simp] theorem emit_dropCount (r : ResultReg) (s : State) : (emit r s).dropCount = s.dropCount := rfl
@[simp] theorem emit_now (r : ResultReg) (s : State) : (emit r s).now = s.now := rfl
@[simp] theorem emit_env (r : ResultReg) (s : State) : (emit r s).env = s.env := rfl
@[simp] theorem emit_arrivals (r : ResultReg) (s : State) : (emit r s).arrivals = s.arrivals := rfl
@[simp] theorem emit_inputs (r : ResultReg) (s : State) : (emit r s).inputs = s.inputs := rfl
@[simp] theorem emit_diag (r : ResultReg) (s : State) : (emit r s).diag = s.diag ++ [r] := rfl
@[simp] theorem emit_drvLog (r : ResultReg) (s : State) : (emit r s).drvLog = s.drvLog := rfl
@[simp] theorem emit_draws (r : ResultReg) (s : State) : (emit r s).draws = s.draws := rfl

@[simp] theorem report_cfg (c : ResCode) (s : State) : (report c s).cfg = s.cfg := rfl
@[simp] theorem report_rxf (c : ResCode) (s : State) : (report c s).rxf = s.rxf := rfl
@[simp] theorem report_txf (c : ResCode) (s : State) : (report c s).txf = s.txf := rfl
@[simp] theorem report_shift (c : ResCode) (s : State) : (report c s).shift = s.shift := rfl
@[simp] theorem report_bitcnt (c : ResCode) (s : State) : (report c s).bitcnt = s.bitcnt := rfl
@[simp] theorem report_dur (c : ResCode) (s : State) : (report c s).dur = s.dur := rfl
@[simp] theorem report_idx (c : ResCode) (s : State) : (report c s).idx = s.idx := rfl
@[simp] theorem report_att (c : ResCode) (s : State) : (report c s).att = s.att := rfl
@[simp] theorem report_wfr (c : ResCode) (s : State) : (report c s).wfr = s.wfr := rfl
@[simp] theorem report_par (c : ResCode) (s : State) : (report c s).par = s.par := rfl
@[simp] theorem report_masked (c : ResCode) (s : State) : (report c s).masked = s.masked := rfl
@[simp] theorem report_tickLatch (c : ResCode) (s : State) : (report c s).tickLatch = s.tickLatch := rfl
@[simp] theorem report_respPending (c : ResCode) (s : State) : (report c s).respPending = s.respPending := rfl
@[simp] theorem report_drv (c : ResCode) (s : State) : (report c s).drv = s.drv := rfl
@[simp] theorem report_timerBase (c : ResCode) (s : State) : (report c s).timerBase = s.timerBase := rfl
@[simp] theorem report_seq (c : ResCode) (s : State) : (report c s).seq = s.seq := rfl
@[simp] theorem report_result (c : ResCode) (s : State) : (report c s).result = { code := c, field := .none, index := 0#6 } := rfl
@[simp] theorem report_act (c : ResCode) (s : State) : (report c s).act = s.act := rfl
@[simp] theorem report_val (c : ResCode) (s : State) : (report c s).val = s.val := rfl
@[simp] theorem report_ds (c : ResCode) (s : State) : (report c s).ds = s.ds := rfl
@[simp] theorem report_slots (c : ResCode) (s : State) : (report c s).slots = s.slots := rfl
@[simp] theorem report_qw (c : ResCode) (s : State) : (report c s).qw = s.qw := rfl
@[simp] theorem report_qr (c : ResCode) (s : State) : (report c s).qr = s.qr := rfl
@[simp] theorem report_ovfCount (c : ResCode) (s : State) : (report c s).ovfCount = s.ovfCount := rfl
@[simp] theorem report_dropCount (c : ResCode) (s : State) : (report c s).dropCount = s.dropCount := rfl
@[simp] theorem report_now (c : ResCode) (s : State) : (report c s).now = s.now := rfl
@[simp] theorem report_env (c : ResCode) (s : State) : (report c s).env = s.env := rfl
@[simp] theorem report_arrivals (c : ResCode) (s : State) : (report c s).arrivals = s.arrivals := rfl
@[simp] theorem report_inputs (c : ResCode) (s : State) : (report c s).inputs = s.inputs := rfl
@[simp] theorem report_diag (c : ResCode) (s : State) : (report c s).diag = s.diag := rfl
@[simp] theorem report_drvLog (c : ResCode) (s : State) : (report c s).drvLog = s.drvLog := rfl
@[simp] theorem report_draws (c : ResCode) (s : State) : (report c s).draws = s.draws := rfl

@[simp] theorem scramble_cfg (s : State) : (scramble s).cfg = s.cfg := rfl
@[simp] theorem scramble_rxf (s : State) : (scramble s).rxf = s.rxf := rfl
@[simp] theorem scramble_txf (s : State) : (scramble s).txf = s.txf := rfl
@[simp] theorem scramble_shift (s : State) : (scramble s).shift = Config.freeBits 12 0 s.draws := rfl
@[simp] theorem scramble_bitcnt (s : State) : (scramble s).bitcnt = Config.freeBits 4 1 s.draws := rfl
@[simp] theorem scramble_dur (s : State) : (scramble s).dur = s.dur := rfl
@[simp] theorem scramble_idx (s : State) : (scramble s).idx = Config.freeBits 6 2 s.draws := rfl
@[simp] theorem scramble_att (s : State) : (scramble s).att = s.att := rfl
@[simp] theorem scramble_wfr (s : State) : (scramble s).wfr = freeRxFrame s.draws := rfl
@[simp] theorem scramble_par (s : State) : (scramble s).par = s.par := rfl
@[simp] theorem scramble_masked (s : State) : (scramble s).masked = s.masked := rfl
@[simp] theorem scramble_tickLatch (s : State) : (scramble s).tickLatch = s.tickLatch := rfl
@[simp] theorem scramble_respPending (s : State) : (scramble s).respPending = s.respPending := rfl
@[simp] theorem scramble_drv (s : State) : (scramble s).drv = s.drv := rfl
@[simp] theorem scramble_timerBase (s : State) : (scramble s).timerBase = s.timerBase := rfl
@[simp] theorem scramble_seq (s : State) : (scramble s).seq = s.seq := rfl
@[simp] theorem scramble_result (s : State) : (scramble s).result = s.result := rfl
@[simp] theorem scramble_act (s : State) : (scramble s).act = s.act := rfl
@[simp] theorem scramble_val (s : State) : (scramble s).val = s.val := rfl
@[simp] theorem scramble_ds (s : State) : (scramble s).ds = s.ds := rfl
@[simp] theorem scramble_slots (s : State) : (scramble s).slots = s.slots := rfl
@[simp] theorem scramble_qw (s : State) : (scramble s).qw = s.qw := rfl
@[simp] theorem scramble_qr (s : State) : (scramble s).qr = s.qr := rfl
@[simp] theorem scramble_ovfCount (s : State) : (scramble s).ovfCount = s.ovfCount := rfl
@[simp] theorem scramble_dropCount (s : State) : (scramble s).dropCount = s.dropCount := rfl
@[simp] theorem scramble_now (s : State) : (scramble s).now = s.now := rfl
@[simp] theorem scramble_env (s : State) : (scramble s).env = s.env := rfl
@[simp] theorem scramble_arrivals (s : State) : (scramble s).arrivals = s.arrivals := rfl
@[simp] theorem scramble_inputs (s : State) : (scramble s).inputs = s.inputs := rfl
@[simp] theorem scramble_diag (s : State) : (scramble s).diag = s.diag := rfl
@[simp] theorem scramble_drvLog (s : State) : (scramble s).drvLog = s.drvLog := rfl
@[simp] theorem scramble_draws (s : State) : (scramble s).draws = s.draws + 1 := rfl

@[simp] theorem seqIdle_cfg (s : State) : (seqIdle s).cfg = s.cfg := rfl
@[simp] theorem seqIdle_rxf (s : State) : (seqIdle s).rxf = s.rxf := rfl
@[simp] theorem seqIdle_txf (s : State) : (seqIdle s).txf = s.txf := rfl
@[simp] theorem seqIdle_shift (s : State) : (seqIdle s).shift = s.shift := rfl
@[simp] theorem seqIdle_bitcnt (s : State) : (seqIdle s).bitcnt = s.bitcnt := rfl
@[simp] theorem seqIdle_dur (s : State) : (seqIdle s).dur = s.dur := rfl
@[simp] theorem seqIdle_idx (s : State) : (seqIdle s).idx = s.idx := rfl
@[simp] theorem seqIdle_att (s : State) : (seqIdle s).att = s.att := rfl
@[simp] theorem seqIdle_wfr (s : State) : (seqIdle s).wfr = s.wfr := rfl
@[simp] theorem seqIdle_par (s : State) : (seqIdle s).par = s.par := rfl
@[simp] theorem seqIdle_masked (s : State) : (seqIdle s).masked = s.masked := rfl
@[simp] theorem seqIdle_tickLatch (s : State) : (seqIdle s).tickLatch = s.tickLatch := rfl
@[simp] theorem seqIdle_respPending (s : State) : (seqIdle s).respPending = s.respPending := rfl
@[simp] theorem seqIdle_drv (s : State) : (seqIdle s).drv = s.drv := rfl
@[simp] theorem seqIdle_timerBase (s : State) : (seqIdle s).timerBase = s.timerBase := rfl
@[simp] theorem seqIdle_seq (s : State) : (seqIdle s).seq = .idle := rfl
@[simp] theorem seqIdle_result (s : State) : (seqIdle s).result = s.result := rfl
@[simp] theorem seqIdle_act (s : State) : (seqIdle s).act = s.act := rfl
@[simp] theorem seqIdle_val (s : State) : (seqIdle s).val = s.val := rfl
@[simp] theorem seqIdle_ds (s : State) : (seqIdle s).ds = s.ds := rfl
@[simp] theorem seqIdle_slots (s : State) : (seqIdle s).slots = s.slots := rfl
@[simp] theorem seqIdle_qw (s : State) : (seqIdle s).qw = s.qw := rfl
@[simp] theorem seqIdle_qr (s : State) : (seqIdle s).qr = s.qr := rfl
@[simp] theorem seqIdle_ovfCount (s : State) : (seqIdle s).ovfCount = s.ovfCount := rfl
@[simp] theorem seqIdle_dropCount (s : State) : (seqIdle s).dropCount = s.dropCount := rfl
@[simp] theorem seqIdle_now (s : State) : (seqIdle s).now = s.now := rfl
@[simp] theorem seqIdle_env (s : State) : (seqIdle s).env = s.env := rfl
@[simp] theorem seqIdle_arrivals (s : State) : (seqIdle s).arrivals = s.arrivals := rfl
@[simp] theorem seqIdle_inputs (s : State) : (seqIdle s).inputs = s.inputs := rfl
@[simp] theorem seqIdle_diag (s : State) : (seqIdle s).diag = s.diag := rfl
@[simp] theorem seqIdle_drvLog (s : State) : (seqIdle s).drvLog = s.drvLog := rfl
@[simp] theorem seqIdle_draws (s : State) : (seqIdle s).draws = s.draws := rfl

@[simp] theorem sendAt_cfg (p : FieldPos) (s : State) : (sendAt p s).cfg = s.cfg := rfl
@[simp] theorem sendAt_rxf (p : FieldPos) (s : State) : (sendAt p s).rxf = s.rxf := rfl
@[simp] theorem sendAt_txf (p : FieldPos) (s : State) : (sendAt p s).txf = s.txf := rfl
@[simp] theorem sendAt_shift (p : FieldPos) (s : State) : (sendAt p s).shift = s.shift := rfl
@[simp] theorem sendAt_bitcnt (p : FieldPos) (s : State) : (sendAt p s).bitcnt = s.bitcnt := rfl
@[simp] theorem sendAt_dur (p : FieldPos) (s : State) : (sendAt p s).dur = s.dur := rfl
@[simp] theorem sendAt_idx (p : FieldPos) (s : State) : (sendAt p s).idx = s.idx := rfl
@[simp] theorem sendAt_att (p : FieldPos) (s : State) : (sendAt p s).att = s.att := rfl
@[simp] theorem sendAt_wfr (p : FieldPos) (s : State) : (sendAt p s).wfr = s.wfr := rfl
@[simp] theorem sendAt_par (p : FieldPos) (s : State) : (sendAt p s).par = s.par := rfl
@[simp] theorem sendAt_masked (p : FieldPos) (s : State) : (sendAt p s).masked = s.masked := rfl
@[simp] theorem sendAt_tickLatch (p : FieldPos) (s : State) : (sendAt p s).tickLatch = s.tickLatch := rfl
@[simp] theorem sendAt_respPending (p : FieldPos) (s : State) : (sendAt p s).respPending = s.respPending := rfl
@[simp] theorem sendAt_drv (p : FieldPos) (s : State) : (sendAt p s).drv = s.drv := rfl
@[simp] theorem sendAt_timerBase (p : FieldPos) (s : State) : (sendAt p s).timerBase = s.timerBase := rfl
@[simp] theorem sendAt_seq (p : FieldPos) (s : State) : (sendAt p s).seq = .busy opSendFrame p := rfl
@[simp] theorem sendAt_result (p : FieldPos) (s : State) : (sendAt p s).result = s.result := rfl
@[simp] theorem sendAt_act (p : FieldPos) (s : State) : (sendAt p s).act = s.act := rfl
@[simp] theorem sendAt_val (p : FieldPos) (s : State) : (sendAt p s).val = s.val := rfl
@[simp] theorem sendAt_ds (p : FieldPos) (s : State) : (sendAt p s).ds = s.ds := rfl
@[simp] theorem sendAt_slots (p : FieldPos) (s : State) : (sendAt p s).slots = s.slots := rfl
@[simp] theorem sendAt_qw (p : FieldPos) (s : State) : (sendAt p s).qw = s.qw := rfl
@[simp] theorem sendAt_qr (p : FieldPos) (s : State) : (sendAt p s).qr = s.qr := rfl
@[simp] theorem sendAt_ovfCount (p : FieldPos) (s : State) : (sendAt p s).ovfCount = s.ovfCount := rfl
@[simp] theorem sendAt_dropCount (p : FieldPos) (s : State) : (sendAt p s).dropCount = s.dropCount := rfl
@[simp] theorem sendAt_now (p : FieldPos) (s : State) : (sendAt p s).now = s.now := rfl
@[simp] theorem sendAt_env (p : FieldPos) (s : State) : (sendAt p s).env = s.env := rfl
@[simp] theorem sendAt_arrivals (p : FieldPos) (s : State) : (sendAt p s).arrivals = s.arrivals := rfl
@[simp] theorem sendAt_inputs (p : FieldPos) (s : State) : (sendAt p s).inputs = s.inputs := rfl
@[simp] theorem sendAt_diag (p : FieldPos) (s : State) : (sendAt p s).diag = s.diag := rfl
@[simp] theorem sendAt_drvLog (p : FieldPos) (s : State) : (sendAt p s).drvLog = s.drvLog := rfl
@[simp] theorem sendAt_draws (p : FieldPos) (s : State) : (sendAt p s).draws = s.draws := rfl

@[simp] theorem readAt_cfg (p : FieldPos) (s : State) : (readAt p s).cfg = s.cfg := rfl
@[simp] theorem readAt_rxf (p : FieldPos) (s : State) : (readAt p s).rxf = s.rxf := rfl
@[simp] theorem readAt_txf (p : FieldPos) (s : State) : (readAt p s).txf = s.txf := rfl
@[simp] theorem readAt_shift (p : FieldPos) (s : State) : (readAt p s).shift = s.shift := rfl
@[simp] theorem readAt_bitcnt (p : FieldPos) (s : State) : (readAt p s).bitcnt = s.bitcnt := rfl
@[simp] theorem readAt_dur (p : FieldPos) (s : State) : (readAt p s).dur = s.dur := rfl
@[simp] theorem readAt_idx (p : FieldPos) (s : State) : (readAt p s).idx = s.idx := rfl
@[simp] theorem readAt_att (p : FieldPos) (s : State) : (readAt p s).att = s.att := rfl
@[simp] theorem readAt_wfr (p : FieldPos) (s : State) : (readAt p s).wfr = s.wfr := rfl
@[simp] theorem readAt_par (p : FieldPos) (s : State) : (readAt p s).par = s.par := rfl
@[simp] theorem readAt_masked (p : FieldPos) (s : State) : (readAt p s).masked = s.masked := rfl
@[simp] theorem readAt_tickLatch (p : FieldPos) (s : State) : (readAt p s).tickLatch = s.tickLatch := rfl
@[simp] theorem readAt_respPending (p : FieldPos) (s : State) : (readAt p s).respPending = s.respPending := rfl
@[simp] theorem readAt_drv (p : FieldPos) (s : State) : (readAt p s).drv = s.drv := rfl
@[simp] theorem readAt_timerBase (p : FieldPos) (s : State) : (readAt p s).timerBase = s.timerBase := rfl
@[simp] theorem readAt_seq (p : FieldPos) (s : State) : (readAt p s).seq = .busy opReadFrame p := rfl
@[simp] theorem readAt_result (p : FieldPos) (s : State) : (readAt p s).result = s.result := rfl
@[simp] theorem readAt_act (p : FieldPos) (s : State) : (readAt p s).act = s.act := rfl
@[simp] theorem readAt_val (p : FieldPos) (s : State) : (readAt p s).val = s.val := rfl
@[simp] theorem readAt_ds (p : FieldPos) (s : State) : (readAt p s).ds = s.ds := rfl
@[simp] theorem readAt_slots (p : FieldPos) (s : State) : (readAt p s).slots = s.slots := rfl
@[simp] theorem readAt_qw (p : FieldPos) (s : State) : (readAt p s).qw = s.qw := rfl
@[simp] theorem readAt_qr (p : FieldPos) (s : State) : (readAt p s).qr = s.qr := rfl
@[simp] theorem readAt_ovfCount (p : FieldPos) (s : State) : (readAt p s).ovfCount = s.ovfCount := rfl
@[simp] theorem readAt_dropCount (p : FieldPos) (s : State) : (readAt p s).dropCount = s.dropCount := rfl
@[simp] theorem readAt_now (p : FieldPos) (s : State) : (readAt p s).now = s.now := rfl
@[simp] theorem readAt_env (p : FieldPos) (s : State) : (readAt p s).env = s.env := rfl
@[simp] theorem readAt_arrivals (p : FieldPos) (s : State) : (readAt p s).arrivals = s.arrivals := rfl
@[simp] theorem readAt_inputs (p : FieldPos) (s : State) : (readAt p s).inputs = s.inputs := rfl
@[simp] theorem readAt_diag (p : FieldPos) (s : State) : (readAt p s).diag = s.diag := rfl
@[simp] theorem readAt_drvLog (p : FieldPos) (s : State) : (readAt p s).drvLog = s.drvLog := rfl
@[simp] theorem readAt_draws (p : FieldPos) (s : State) : (readAt p s).draws = s.draws := rfl

@[simp] theorem tickEffect_cfg (s : State) : (tickEffect s).cfg = s.cfg := rfl
@[simp] theorem tickEffect_rxf (s : State) : (tickEffect s).rxf = s.rxf := rfl
@[simp] theorem tickEffect_txf (s : State) : (tickEffect s).txf = s.txf := rfl
@[simp] theorem tickEffect_shift (s : State) : (tickEffect s).shift = s.shift := rfl
@[simp] theorem tickEffect_bitcnt (s : State) : (tickEffect s).bitcnt = s.bitcnt := rfl
@[simp] theorem tickEffect_dur (s : State) : (tickEffect s).dur = s.dur := rfl
@[simp] theorem tickEffect_idx (s : State) : (tickEffect s).idx = s.idx := rfl
@[simp] theorem tickEffect_att (s : State) : (tickEffect s).att = s.att := rfl
@[simp] theorem tickEffect_wfr (s : State) : (tickEffect s).wfr = s.wfr := rfl
@[simp] theorem tickEffect_par (s : State) : (tickEffect s).par = s.par := rfl
@[simp] theorem tickEffect_masked (s : State) : (tickEffect s).masked = s.masked := rfl
@[simp] theorem tickEffect_tickLatch (s : State) : (tickEffect s).tickLatch = s.tickLatch := rfl
@[simp] theorem tickEffect_respPending (s : State) : (tickEffect s).respPending = (s.respPending || decide (s.ds.mode = .play) || !s.cfg.tickPendingOnlyInPlay) := rfl
@[simp] theorem tickEffect_drv (s : State) : (tickEffect s).drv = s.drv := rfl
@[simp] theorem tickEffect_timerBase (s : State) : (tickEffect s).timerBase = s.timerBase := rfl
@[simp] theorem tickEffect_seq (s : State) : (tickEffect s).seq = s.seq := rfl
@[simp] theorem tickEffect_result (s : State) : (tickEffect s).result = s.result := rfl
@[simp] theorem tickEffect_act (s : State) : (tickEffect s).act = s.act := rfl
@[simp] theorem tickEffect_val (s : State) : (tickEffect s).val = s.val := rfl
@[simp] theorem tickEffect_slots (s : State) : (tickEffect s).slots = s.slots := rfl
@[simp] theorem tickEffect_qw (s : State) : (tickEffect s).qw = s.qw := rfl
@[simp] theorem tickEffect_qr (s : State) : (tickEffect s).qr = s.qr := rfl
@[simp] theorem tickEffect_ovfCount (s : State) : (tickEffect s).ovfCount = s.ovfCount := rfl
@[simp] theorem tickEffect_dropCount (s : State) : (tickEffect s).dropCount = s.dropCount := rfl
@[simp] theorem tickEffect_now (s : State) : (tickEffect s).now = s.now := rfl
@[simp] theorem tickEffect_env (s : State) : (tickEffect s).env = s.env := rfl
@[simp] theorem tickEffect_arrivals (s : State) : (tickEffect s).arrivals = s.arrivals := rfl
@[simp] theorem tickEffect_inputs (s : State) : (tickEffect s).inputs = s.inputs := rfl
@[simp] theorem tickEffect_diag (s : State) : (tickEffect s).diag = s.diag := rfl
@[simp] theorem tickEffect_drvLog (s : State) : (tickEffect s).drvLog = s.drvLog := rfl
@[simp] theorem tickEffect_draws (s : State) : (tickEffect s).draws = s.draws := rfl

@[simp] theorem latchArrivals_cfg (s : State) : (latchArrivals s).cfg = s.cfg := rfl
@[simp] theorem latchArrivals_rxf (s : State) : (latchArrivals s).rxf = s.rxf := rfl
@[simp] theorem latchArrivals_txf (s : State) : (latchArrivals s).txf = s.txf := rfl
@[simp] theorem latchArrivals_shift (s : State) : (latchArrivals s).shift = s.shift := rfl
@[simp] theorem latchArrivals_bitcnt (s : State) : (latchArrivals s).bitcnt = s.bitcnt := rfl
@[simp] theorem latchArrivals_dur (s : State) : (latchArrivals s).dur = s.dur := rfl
@[simp] theorem latchArrivals_idx (s : State) : (latchArrivals s).idx = s.idx := rfl
@[simp] theorem latchArrivals_att (s : State) : (latchArrivals s).att = s.att := rfl
@[simp] theorem latchArrivals_wfr (s : State) : (latchArrivals s).wfr = s.wfr := rfl
@[simp] theorem latchArrivals_par (s : State) : (latchArrivals s).par = s.par := rfl
@[simp] theorem latchArrivals_masked (s : State) : (latchArrivals s).masked = s.masked := rfl
@[simp] theorem latchArrivals_tickLatch (s : State) : (latchArrivals s).tickLatch = (s.tickLatch || s.arrivals.any (fun t => decide (t < s.now))) := rfl
@[simp] theorem latchArrivals_respPending (s : State) : (latchArrivals s).respPending = s.respPending := rfl
@[simp] theorem latchArrivals_drv (s : State) : (latchArrivals s).drv = s.drv := rfl
@[simp] theorem latchArrivals_timerBase (s : State) : (latchArrivals s).timerBase = s.timerBase := rfl
@[simp] theorem latchArrivals_seq (s : State) : (latchArrivals s).seq = s.seq := rfl
@[simp] theorem latchArrivals_result (s : State) : (latchArrivals s).result = s.result := rfl
@[simp] theorem latchArrivals_act (s : State) : (latchArrivals s).act = s.act := rfl
@[simp] theorem latchArrivals_val (s : State) : (latchArrivals s).val = s.val := rfl
@[simp] theorem latchArrivals_ds (s : State) : (latchArrivals s).ds = s.ds := rfl
@[simp] theorem latchArrivals_slots (s : State) : (latchArrivals s).slots = s.slots := rfl
@[simp] theorem latchArrivals_qw (s : State) : (latchArrivals s).qw = s.qw := rfl
@[simp] theorem latchArrivals_qr (s : State) : (latchArrivals s).qr = s.qr := rfl
@[simp] theorem latchArrivals_ovfCount (s : State) : (latchArrivals s).ovfCount = s.ovfCount := rfl
@[simp] theorem latchArrivals_dropCount (s : State) : (latchArrivals s).dropCount = s.dropCount := rfl
@[simp] theorem latchArrivals_now (s : State) : (latchArrivals s).now = s.now := rfl
@[simp] theorem latchArrivals_env (s : State) : (latchArrivals s).env = s.env := rfl
@[simp] theorem latchArrivals_arrivals (s : State) : (latchArrivals s).arrivals = s.arrivals.filter (fun t => !decide (t < s.now)) := rfl
@[simp] theorem latchArrivals_inputs (s : State) : (latchArrivals s).inputs = s.inputs := rfl
@[simp] theorem latchArrivals_diag (s : State) : (latchArrivals s).diag = s.diag := rfl
@[simp] theorem latchArrivals_drvLog (s : State) : (latchArrivals s).drvLog = s.drvLog := rfl
@[simp] theorem latchArrivals_draws (s : State) : (latchArrivals s).draws = s.draws := rfl

@[simp] theorem setWork_cfg (f : Frame) (s : State) : (setWork f s).cfg = s.cfg := rfl
@[simp] theorem setWork_rxf (f : Frame) (s : State) : (setWork f s).rxf = s.rxf := rfl
@[simp] theorem setWork_txf (f : Frame) (s : State) : (setWork f s).txf = s.txf := rfl
@[simp] theorem setWork_shift (f : Frame) (s : State) : (setWork f s).shift = s.shift := rfl
@[simp] theorem setWork_bitcnt (f : Frame) (s : State) : (setWork f s).bitcnt = s.bitcnt := rfl
@[simp] theorem setWork_dur (f : Frame) (s : State) : (setWork f s).dur = s.dur := rfl
@[simp] theorem setWork_idx (f : Frame) (s : State) : (setWork f s).idx = s.idx := rfl
@[simp] theorem setWork_att (f : Frame) (s : State) : (setWork f s).att = s.att := rfl
@[simp] theorem setWork_wfr (f : Frame) (s : State) : (setWork f s).wfr = { s.wfr with frame := f } := rfl
@[simp] theorem setWork_par (f : Frame) (s : State) : (setWork f s).par = s.par := rfl
@[simp] theorem setWork_masked (f : Frame) (s : State) : (setWork f s).masked = s.masked := rfl
@[simp] theorem setWork_tickLatch (f : Frame) (s : State) : (setWork f s).tickLatch = s.tickLatch := rfl
@[simp] theorem setWork_respPending (f : Frame) (s : State) : (setWork f s).respPending = s.respPending := rfl
@[simp] theorem setWork_drv (f : Frame) (s : State) : (setWork f s).drv = s.drv := rfl
@[simp] theorem setWork_timerBase (f : Frame) (s : State) : (setWork f s).timerBase = s.timerBase := rfl
@[simp] theorem setWork_seq (f : Frame) (s : State) : (setWork f s).seq = s.seq := rfl
@[simp] theorem setWork_result (f : Frame) (s : State) : (setWork f s).result = s.result := rfl
@[simp] theorem setWork_act (f : Frame) (s : State) : (setWork f s).act = s.act := rfl
@[simp] theorem setWork_val (f : Frame) (s : State) : (setWork f s).val = s.val := rfl
@[simp] theorem setWork_ds (f : Frame) (s : State) : (setWork f s).ds = s.ds := rfl
@[simp] theorem setWork_slots (f : Frame) (s : State) : (setWork f s).slots = s.slots := rfl
@[simp] theorem setWork_qw (f : Frame) (s : State) : (setWork f s).qw = s.qw := rfl
@[simp] theorem setWork_qr (f : Frame) (s : State) : (setWork f s).qr = s.qr := rfl
@[simp] theorem setWork_ovfCount (f : Frame) (s : State) : (setWork f s).ovfCount = s.ovfCount := rfl
@[simp] theorem setWork_dropCount (f : Frame) (s : State) : (setWork f s).dropCount = s.dropCount := rfl
@[simp] theorem setWork_now (f : Frame) (s : State) : (setWork f s).now = s.now := rfl
@[simp] theorem setWork_env (f : Frame) (s : State) : (setWork f s).env = s.env := rfl
@[simp] theorem setWork_arrivals (f : Frame) (s : State) : (setWork f s).arrivals = s.arrivals := rfl
@[simp] theorem setWork_inputs (f : Frame) (s : State) : (setWork f s).inputs = s.inputs := rfl
@[simp] theorem setWork_diag (f : Frame) (s : State) : (setWork f s).diag = s.diag := rfl
@[simp] theorem setWork_drvLog (f : Frame) (s : State) : (setWork f s).drvLog = s.drvLog := rfl
@[simp] theorem setWork_draws (f : Frame) (s : State) : (setWork f s).draws = s.draws := rfl

@[simp] theorem popHead_cfg (s : State) : (popHead s).cfg = s.cfg := rfl
@[simp] theorem popHead_rxf (s : State) : (popHead s).rxf = s.rxf := rfl
@[simp] theorem popHead_txf (s : State) : (popHead s).txf = slotRead s.slots (s.slotOf s.qr) := rfl
@[simp] theorem popHead_shift (s : State) : (popHead s).shift = s.shift := rfl
@[simp] theorem popHead_bitcnt (s : State) : (popHead s).bitcnt = s.bitcnt := rfl
@[simp] theorem popHead_dur (s : State) : (popHead s).dur = s.dur := rfl
@[simp] theorem popHead_idx (s : State) : (popHead s).idx = s.idx := rfl
@[simp] theorem popHead_att (s : State) : (popHead s).att = s.att := rfl
@[simp] theorem popHead_wfr (s : State) : (popHead s).wfr = s.wfr := rfl
@[simp] theorem popHead_par (s : State) : (popHead s).par = s.par := rfl
@[simp] theorem popHead_masked (s : State) : (popHead s).masked = s.masked := rfl
@[simp] theorem popHead_tickLatch (s : State) : (popHead s).tickLatch = s.tickLatch := rfl
@[simp] theorem popHead_respPending (s : State) : (popHead s).respPending = s.respPending := rfl
@[simp] theorem popHead_drv (s : State) : (popHead s).drv = s.drv := rfl
@[simp] theorem popHead_timerBase (s : State) : (popHead s).timerBase = s.timerBase := rfl
@[simp] theorem popHead_seq (s : State) : (popHead s).seq = s.seq := rfl
@[simp] theorem popHead_result (s : State) : (popHead s).result = s.result := rfl
@[simp] theorem popHead_act (s : State) : (popHead s).act = s.act := rfl
@[simp] theorem popHead_val (s : State) : (popHead s).val = s.val := rfl
@[simp] theorem popHead_ds (s : State) : (popHead s).ds = s.ds := rfl
@[simp] theorem popHead_slots (s : State) : (popHead s).slots = s.slots := rfl
@[simp] theorem popHead_qw (s : State) : (popHead s).qw = s.qw := rfl
@[simp] theorem popHead_qr (s : State) : (popHead s).qr = s.qr + 1#8 := rfl
@[simp] theorem popHead_ovfCount (s : State) : (popHead s).ovfCount = s.ovfCount := rfl
@[simp] theorem popHead_dropCount (s : State) : (popHead s).dropCount = s.dropCount := rfl
@[simp] theorem popHead_now (s : State) : (popHead s).now = s.now := rfl
@[simp] theorem popHead_env (s : State) : (popHead s).env = s.env := rfl
@[simp] theorem popHead_arrivals (s : State) : (popHead s).arrivals = s.arrivals := rfl
@[simp] theorem popHead_inputs (s : State) : (popHead s).inputs = s.inputs := rfl
@[simp] theorem popHead_diag (s : State) : (popHead s).diag = s.diag := rfl
@[simp] theorem popHead_drvLog (s : State) : (popHead s).drvLog = s.drvLog := rfl
@[simp] theorem popHead_draws (s : State) : (popHead s).draws = s.draws := rfl

/-- The line as seen from a state depends on DRV and the environment only. -/
theorem line_def (s : State) (t : Nat) : s.line t = lineLevel s.drv s.env t := rfl

end Sys2Proof.Machine
end

