-- ==== Sys2Proof/Laws/Bus.lean ====
section
/-! SUPPORT. The line and the waits: what a poll finds (R12), what the record of DRV says (R11), and the two levels. -/

namespace Sys2Proof.Machine

@[simp] theorem lineLevel_dominant (drv : Bool) (env : List (Nat × Nat)) (t : Nat) :
    lineLevel drv env t = .dominant ↔ (drv = true ∨ envDrives env t = true) := by
  cases drv <;> cases h : envDrives env t <;> simp [lineLevel, h]

@[simp] theorem lineLevel_recessive (drv : Bool) (env : List (Nat × Nat)) (t : Nat) :
    lineLevel drv env t = .recessive ↔ (drv = false ∧ envDrives env t = false) := by
  cases drv <;> cases h : envDrives env t <;> simp [lineLevel, h]

/-- A poll that finds its level: it comes at tick `t + e` and at no earlier sample (R12). -/
theorem pollCount_eq_some (drv : Bool) (env : List (Nat × Nat)) (lvl : Level) (limit t e : Nat) :
    pollCount drv env lvl limit t = some e ↔
      e < limit ∧ lineLevel drv env (t + e) = lvl ∧ ∀ k < e, lineLevel drv env (t + k) ≠ lvl := by
  induction limit generalizing t e with
  | zero => simp [pollCount]
  | succ n ih =>
    unfold pollCount
    by_cases h : lineLevel drv env t = lvl
    · rw [if_pos h]
      constructor
      · rintro ⟨⟩
        exact ⟨by omega, by simpa using h, by omega⟩
      · rintro ⟨-, -, h3⟩
        cases e with
        | zero => rfl
        | succ e => exact absurd (by simpa using h) (h3 0 (by omega))
    · rw [if_neg h]
      cases e with
      | zero => simp [h]
      | succ e =>
        simp only [Option.map_eq_some_iff, Nat.add_right_cancel_iff, exists_eq_right, ih]
        constructor
        · rintro ⟨h1, h2, h3⟩
          refine ⟨by omega, by rwa [show t + (e + 1) = t + 1 + e by omega], fun k hk => ?_⟩
          cases k with
          | zero => simpa using h
          | succ k => rw [show t + (k + 1) = t + 1 + k by omega]; exact h3 k (by omega)
        · rintro ⟨h1, h2, h3⟩
          refine ⟨by omega, by rwa [show t + 1 + e = t + (e + 1) by omega], fun k hk => ?_⟩
          rw [show t + 1 + k = t + (k + 1) by omega]
          exact h3 (k + 1) (by omega)

/-- A poll that runs out: no sample had the level (R12). -/
theorem pollCount_eq_none (drv : Bool) (env : List (Nat × Nat)) (lvl : Level) (limit t : Nat) :
    pollCount drv env lvl limit t = none ↔ ∀ k < limit, lineLevel drv env (t + k) ≠ lvl := by
  induction limit generalizing t with
  | zero => simp [pollCount]
  | succ n ih =>
    unfold pollCount
    by_cases h : lineLevel drv env t = lvl
    · rw [if_pos h]
      exact ⟨nofun, fun hh => absurd (by simpa using h) (hh 0 (by omega))⟩
    · rw [if_neg h]
      simp only [Option.map_eq_none_iff, ih]
      constructor
      · intro hh k hk
        cases k with
        | zero => simpa using h
        | succ k => rw [show t + (k + 1) = t + 1 + k by omega]; exact hh k (by omega)
      · intro hh k hk
        rw [show t + 1 + k = t + (k + 1) by omega]
        exact hh (k + 1) (by omega)

/-- A wait that finds its level after e ticks. -/
theorem waitFor_found {lvl : Level} {limit : Nat} {s : State} {e : Nat} (he : e < limit)
    (hl : s.line (s.now + e) = lvl) (hb : ∀ k < e, s.line (s.now + k) ≠ lvl) :
    waitFor lvl limit s = (some e, waitTicks e s) := by
  have h : pollCount s.drv s.env lvl limit s.now = some e :=
    (pollCount_eq_some s.drv s.env lvl limit s.now e).mpr ⟨he, hl, hb⟩
  simp [waitFor, h]

/-- A wait that runs out. -/
theorem waitFor_expired {lvl : Level} {limit : Nat} {s : State} (hb : ∀ k < limit, s.line (s.now + k) ≠ lvl) :
    waitFor lvl limit s = (none, waitTicks limit s) := by
  have h : pollCount s.drv s.env lvl limit s.now = none :=
    (pollCount_eq_none s.drv s.env lvl limit s.now).mpr hb
  simp [waitFor, h]

/-- Everything a wait can do (R12). -/
theorem waitFor_cases (lvl : Level) (limit : Nat) (s : State) :
    (∃ e, e < limit ∧ s.line (s.now + e) = lvl ∧ (∀ k < e, s.line (s.now + k) ≠ lvl) ∧
        waitFor lvl limit s = (some e, waitTicks e s)) ∨
      ((∀ k < limit, s.line (s.now + k) ≠ lvl) ∧ waitFor lvl limit s = (none, waitTicks limit s)) := by
  cases h : pollCount s.drv s.env lvl limit s.now with
  | some e =>
    obtain ⟨h1, h2, h3⟩ := (pollCount_eq_some s.drv s.env lvl limit s.now e).mp h
    exact .inl ⟨e, h1, h2, h3, by simp [waitFor, h]⟩
  | none => exact .inr ⟨(pollCount_eq_none s.drv s.env lvl limit s.now).mp h, by simp [waitFor, h]⟩

/-- The record of DRV past its last assignment. -/
theorem drvAt_cons_le (u : Nat) (b : Bool) (log : List (Nat × Bool)) {t : Nat} (h : u ≤ t) :
    drvAt ((u, b) :: log) t = b := by simp [drvAt, h]

/-- The record of DRV before its last assignment. -/
theorem drvAt_cons_gt (u : Nat) (b : Bool) (log : List (Nat × Bool)) {t : Nat} (h : t < u) :
    drvAt ((u, b) :: log) t = drvAt log t := by simp [drvAt, Nat.not_le.mpr h]

/-- A record whose assignments all lie at or before t says the same from t on. -/
theorem drvAt_stable (log : List (Nat × Bool)) {t u : Nat} (h : ∀ p ∈ log, p.1 ≤ t) (hu : t ≤ u) :
    drvAt log u = drvAt log t := by
  cases log with
  | nil => rfl
  | cons p log =>
    obtain ⟨v, b⟩ := p
    have hv : v ≤ t := h (v, b) (by simp)
    rw [drvAt_cons_le v b log (Nat.le_trans hv hu), drvAt_cons_le v b log hv]

end Sys2Proof.Machine
end

