-- ==== Sys2Proof/Laws/Memory.lean ====
section
/-! SUPPORT. The indexed storages: a read after a write, and the canonical form, which every operation keeps. -/

namespace Sys2Proof.Machine

variable {α : Type}

theorem cellsRead_filter_self (dflt : α) (m : List (Nat × α)) (a : Nat) :
    cellsRead dflt (m.filter (fun c => !decide (c.1 = a))) a = dflt := by
  induction m with
  | nil => rfl
  | cons p m ih =>
    obtain ⟨b, w⟩ := p
    by_cases h : b = a
    · simpa [List.filter_cons, h] using ih
    · rw [List.filter_cons_of_pos (by simpa using h)]
      simpa [cellsRead, h] using ih

theorem cellsRead_filter_other (dflt : α) (m : List (Nat × α)) {a k : Nat} (hk : k ≠ a) :
    cellsRead dflt (m.filter (fun c => !decide (c.1 = a))) k = cellsRead dflt m k := by
  induction m with
  | nil => rfl
  | cons p m ih =>
    obtain ⟨b, w⟩ := p
    by_cases h : b = a
    · subst h
      rw [List.filter_cons_of_neg (by simp), ih]
      simp [cellsRead, Ne.symm hk]
    · rw [List.filter_cons_of_pos (by simpa using h)]
      simp only [cellsRead, ih]

theorem cellsRead_insert_self (dflt : α) (a : Nat) (v : α) (m : List (Nat × α)) (hm : ∀ p ∈ m, p.1 ≠ a) :
    cellsRead dflt (cellsInsert a v m) a = v := by
  induction m with
  | nil => simp [cellsInsert, cellsRead]
  | cons p m ih =>
    obtain ⟨b, w⟩ := p
    by_cases h : a < b
    · simp [cellsInsert, h, cellsRead]
    · have hb : b ≠ a := hm (b, w) (by simp)
      simpa [cellsInsert, h, cellsRead, hb] using ih (fun p hp => hm p (by simp [hp]))

theorem cellsRead_insert_other (dflt : α) {a k : Nat} (v : α) (m : List (Nat × α)) (hk : k ≠ a) :
    cellsRead dflt (cellsInsert a v m) k = cellsRead dflt m k := by
  induction m with
  | nil => simp [cellsInsert, cellsRead, Ne.symm hk]
  | cons p m ih =>
    obtain ⟨b, w⟩ := p
    by_cases h : a < b
    · simp [cellsInsert, h, cellsRead, Ne.symm hk]
    · simp only [cellsInsert, h, if_false, cellsRead, ih]

theorem mem_filter_ne {m : List (Nat × α)} {a : Nat} {p : Nat × α}
    (h : p ∈ m.filter (fun c => !decide (c.1 = a))) : p.1 ≠ a := by
  simpa using (List.mem_filter.mp h).2

/-- A read after a write to the same index gives the value written. -/
@[simp] theorem cellsRead_write_self [DecidableEq α] (dflt : α) (m : List (Nat × α)) (a : Nat) (v : α) :
    cellsRead dflt (cellsWrite dflt m a v) a = v := by
  unfold cellsWrite
  by_cases h : v = dflt
  · simpa only [h, if_true] using cellsRead_filter_self dflt m a
  · rw [if_neg h]
    exact cellsRead_insert_self dflt a v _ (fun p hp => mem_filter_ne hp)

/-- A write leaves every other index alone. -/
@[simp] theorem cellsRead_write_other [DecidableEq α] (dflt : α) (m : List (Nat × α)) {a k : Nat} (v : α) (hk : k ≠ a) :
    cellsRead dflt (cellsWrite dflt m a v) k = cellsRead dflt m k := by
  unfold cellsWrite
  by_cases h : v = dflt
  · simp only [h, if_true]
    exact cellsRead_filter_other dflt m hk
  · rw [if_neg h, cellsRead_insert_other dflt v _ hk, cellsRead_filter_other dflt m hk]

/-- The canonical form said over the members. -/
theorem cellsWf_iff [DecidableEq α] (dflt : α) (bound : Nat) (m : List (Nat × α)) :
    cellsWf dflt bound m = true ↔
      (∀ p ∈ m, p.1 < bound ∧ p.2 ≠ dflt) ∧ m.Pairwise (fun p q => p.1 < q.1) := by
  induction m with
  | nil => simp [cellsWf]
  | cons p m ih =>
    obtain ⟨a, v⟩ := p
    simp only [cellsWf, Bool.and_eq_true, decide_eq_true_eq, List.all_eq_true, ih, List.mem_cons,
      forall_eq_or_imp, List.pairwise_cons]
    tauto

theorem mem_cellsInsert (a : Nat) (v : α) (m : List (Nat × α)) (p : Nat × α) :
    p ∈ cellsInsert a v m ↔ p = (a, v) ∨ p ∈ m := by
  induction m with
  | nil => simp [cellsInsert]
  | cons q m ih =>
    obtain ⟨b, w⟩ := q
    by_cases h : a < b
    · simp [cellsInsert, h]
    · simp only [cellsInsert, h, if_false, List.mem_cons, ih]
      tauto

theorem pairwise_cellsInsert (a : Nat) (v : α) (m : List (Nat × α)) (hm : ∀ p ∈ m, p.1 ≠ a)
    (hp : m.Pairwise (fun p q => p.1 < q.1)) : (cellsInsert a v m).Pairwise (fun p q => p.1 < q.1) := by
  induction m with
  | nil => simp [cellsInsert]
  | cons q m ih =>
    obtain ⟨b, w⟩ := q
    have hb : b ≠ a := hm (b, w) (by simp)
    obtain ⟨h1, h2⟩ := List.pairwise_cons.mp hp
    by_cases h : a < b
    · rw [cellsInsert, if_pos h]
      refine List.pairwise_cons.mpr ⟨?_, hp⟩
      intro p hp'
      rcases List.mem_cons.mp hp' with rfl | hp'
      · exact h
      · exact Nat.lt_trans h (h1 p hp')
    · rw [cellsInsert, if_neg h]
      refine List.pairwise_cons.mpr ⟨?_, ih (fun p hp => hm p (by simp [hp])) h2⟩
      intro p hp'
      rcases (mem_cellsInsert a v m p).mp hp' with rfl | hp'
      · exact Nat.lt_of_le_of_ne (Nat.le_of_not_lt h) hb
      · exact h1 p hp'

/-- A write at an index below the bound keeps the canonical form. -/
theorem cellsWf_write [DecidableEq α] (dflt : α) {bound : Nat} (m : List (Nat × α)) {a : Nat} (v : α) (ha : a < bound)
    (hm : cellsWf dflt bound m = true) : cellsWf dflt bound (cellsWrite dflt m a v) = true := by
  rw [cellsWf_iff] at hm ⊢
  obtain ⟨hmem, hp⟩ := hm
  have hp' : (m.filter (fun c => !decide (c.1 = a))).Pairwise (fun p q => p.1 < q.1) := hp.filter _
  have hmem' : ∀ p ∈ m.filter (fun c => !decide (c.1 = a)), p.1 < bound ∧ p.2 ≠ dflt :=
    fun p h => hmem p (List.mem_filter.mp h).1
  unfold cellsWrite
  by_cases hv : v = dflt
  · rw [if_pos hv]
    exact ⟨hmem', hp'⟩
  · rw [if_neg hv]
    refine ⟨fun p h => ?_, pairwise_cellsInsert a v _ (fun p h => mem_filter_ne h) hp'⟩
    rcases (mem_cellsInsert a v _ p).mp h with rfl | h
    · exact ⟨ha, hv⟩
    · exact hmem' p h

/-! ## Payload buffers -/

@[simp] theorem Memory.read_write_self (m : Memory) (i : Nat) (v : Byte) : (m.write i v).read i = v :=
  cellsRead_write_self _ m i v

@[simp] theorem Memory.read_write_other (m : Memory) {i k : Nat} (v : Byte) (h : k ≠ i) :
    (m.write i v).read k = m.read k :=
  cellsRead_write_other _ m v h

@[simp] theorem Memory.read_nil (i : Nat) : Memory.read [] i = 0#8 := rfl

@[simp] theorem Memory.wf_nil : Memory.wf [] = true := rfl

/-- A byte written at a payload index keeps the canonical form. -/
theorem Memory.wf_write (m : Memory) {i : Nat} (v : Byte) (hi : i < 32) (hm : m.wf = true) : (m.write i v).wf = true :=
  cellsWf_write _ m v hi hm

/-- Copying the first bytes of a payload keeps the canonical form. -/
theorem Memory.wf_copyPrefix (src dst : Memory) {n : Nat} (hn : n ≤ 32) (h : dst.wf = true) :
    (Memory.copyPrefix src dst n).wf = true := by
  induction n with
  | zero => exact h
  | succ k ih => exact Memory.wf_write _ _ (by omega) (ih (by omega))

/-- What a payload holds after the first bytes of another have been copied into it. -/
theorem Memory.read_copyPrefix (src dst : Memory) (n k : Nat) :
    (Memory.copyPrefix src dst n).read k = if k < n then src.read k else dst.read k := by
  induction n with
  | zero => simp [Memory.copyPrefix]
  | succ m ih =>
    by_cases h : k = m
    · subst h; simp [Memory.copyPrefix]
    · rw [Memory.copyPrefix, Memory.read_write_other _ _ h, ih]
      by_cases h2 : k < m
      · simp [h2, Nat.lt_succ_of_lt h2]
      · have : ¬ k < m + 1 := by omega
        simp [h2, this]

/-- Bytes laid down inside the buffer keep the canonical form. -/
theorem Memory.wf_writeBytes (m : Memory) (i : Nat) (bs : List Byte) (h : i + bs.length ≤ 32) (hm : m.wf = true) :
    (m.writeBytes i bs).wf = true := by
  induction bs generalizing m i with
  | nil => exact hm
  | cons b bs ih =>
    simp only [List.length_cons] at h
    exact ih _ _ (by omega) (Memory.wf_write _ _ (by omega) hm)

theorem Memory.read_writeBytes_before (m : Memory) (i : Nat) (bs : List Byte) {k : Nat} (h : k < i) :
    (m.writeBytes i bs).read k = m.read k := by
  induction bs generalizing m i with
  | nil => rfl
  | cons b bs ih => rw [Memory.writeBytes, ih _ _ (by omega), Memory.read_write_other _ _ (by omega)]

/-- What a payload holds after bytes have been laid down from index i on. -/
theorem Memory.read_writeBytes (m : Memory) (i : Nat) (bs : List Byte) (k : Nat) :
    (m.writeBytes i bs).read k = if i ≤ k then (bs[k - i]?).getD (m.read k) else m.read k := by
  induction bs generalizing m i with
  | nil => simp [Memory.writeBytes]
  | cons b bs ih =>
    rw [Memory.writeBytes, ih]
    rcases Nat.lt_trichotomy k i with h | h | h
    · simp [show ¬ i + 1 ≤ k by omega, show ¬ i ≤ k by omega, Nat.ne_of_lt h]
    · subst h; simp
    · have hk : k - i = (k - (i + 1)) + 1 := by omega
      simp [show i + 1 ≤ k by omega, show i ≤ k by omega, hk, Nat.ne_of_gt h]

@[simp] theorem Memory.bytes_length (m : Memory) (n : Nat) : (m.bytes n).length = n := by
  induction n with
  | zero => rfl
  | succ k ih => simp [Memory.bytes, ih]

theorem Memory.bytes_get (m : Memory) {n k : Nat} (h : k < n) : (m.bytes n)[k]? = some (m.read k) := by
  induction n with
  | zero => omega
  | succ j ih =>
    rw [Memory.bytes]
    by_cases hk : k < j
    · rw [List.getElem?_append_left (by simpa using hk), ih hk]
    · have : k = j := by omega
      subst this
      rw [List.getElem?_append_right (by simp)]
      simp

/-! ## Queue slots -/

@[simp] theorem slotRead_write_self (q : List (Nat × Frame)) (k : Nat) (f : Frame) :
    slotRead (slotWrite q k f) k = f :=
  cellsRead_write_self _ q k f

@[simp] theorem slotRead_write_other (q : List (Nat × Frame)) {k j : Nat} (f : Frame) (h : j ≠ k) :
    slotRead (slotWrite q k f) j = slotRead q j :=
  cellsRead_write_other _ q f h

end Sys2Proof.Machine
end

