-- ==== Sys2Proof/Laws/Codec.lean ====
section
/-! SUPPORT. What the steps of the codec and of the frame operations can do, said once: the registers they leave alone,
and what they keep of the driver record and of the scratch registers (`Advances`); and every outcome of each receive
step. -/

namespace Sys2Proof.Machine

/-- A step of a bus operation: only the line, time and the scratch registers with PAR and SEQ may differ. -/
structure Advances (s t : State) : Prop where
  cfg : t.cfg = s.cfg
  rxf : t.rxf = s.rxf
  txf : t.txf = s.txf
  att : t.att = s.att
  masked : t.masked = s.masked
  tickLatch : t.tickLatch = s.tickLatch
  respPending : t.respPending = s.respPending
  timerBase : t.timerBase = s.timerBase
  result : t.result = s.result
  act : t.act = s.act
  val : t.val = s.val
  ds : t.ds = s.ds
  slots : t.slots = s.slots
  qw : t.qw = s.qw
  qr : t.qr = s.qr
  ovfCount : t.ovfCount = s.ovfCount
  dropCount : t.dropCount = s.dropCount
  env : t.env = s.env
  arrivals : t.arrivals = s.arrivals
  inputs : t.inputs = s.inputs
  diag : t.diag = s.diag
  draws : t.draws = s.draws
  time : s.now ≤ t.now
  durWidth : s.dur < 2 ^ s.cfg.wTimer → t.dur < 2 ^ t.cfg.wTimer
  released : s.drv = false → t.drv = false
  logPast : (∀ p ∈ s.drvLog, p.1 ≤ s.now) → ∀ p ∈ t.drvLog, p.1 ≤ t.now
  logAgrees : (∀ p ∈ s.drvLog, p.1 ≤ s.now) → drvAt s.drvLog s.now = s.drv → drvAt t.drvLog t.now = t.drv
  wfrMemory : s.wfr.frame.pay.wf = true → t.wfr.frame.pay.wf = true

theorem Advances.refl (s : State) : Advances s s := by
  constructor <;> first | rfl | exact id | exact fun _ h => h

theorem Advances.trans {s t u : State} (a : Advances s t) (b : Advances t u) : Advances s u where
  cfg := b.cfg.trans a.cfg
  rxf := b.rxf.trans a.rxf
  txf := b.txf.trans a.txf
  att := b.att.trans a.att
  masked := b.masked.trans a.masked
  tickLatch := b.tickLatch.trans a.tickLatch
  respPending := b.respPending.trans a.respPending
  timerBase := b.timerBase.trans a.timerBase
  result := b.result.trans a.result
  act := b.act.trans a.act
  val := b.val.trans a.val
  ds := b.ds.trans a.ds
  slots := b.slots.trans a.slots
  qw := b.qw.trans a.qw
  qr := b.qr.trans a.qr
  ovfCount := b.ovfCount.trans a.ovfCount
  dropCount := b.dropCount.trans a.dropCount
  env := b.env.trans a.env
  arrivals := b.arrivals.trans a.arrivals
  inputs := b.inputs.trans a.inputs
  diag := b.diag.trans a.diag
  draws := b.draws.trans a.draws
  time := Nat.le_trans a.time b.time
  durWidth := fun h => b.durWidth (a.durWidth h)
  released := fun h => b.released (a.released h)
  logPast := fun h => b.logPast (a.logPast h)
  logAgrees := fun h h' => b.logAgrees (a.logPast h) (a.logAgrees h h')
  wfrMemory := fun h => b.wfrMemory (a.wfrMemory h)

/-- A change of the registers that only a bus operation's step writes, with no time and no driving. -/
theorem Advances.scratch (s : State) (shift : BitVec 12) (bitcnt : BitVec 4) (idx : BitVec 6) (par : Bool) (seq : Seq) :
    Advances s { s with shift := shift, bitcnt := bitcnt, idx := idx, par := par, seq := seq } := by
  constructor <;> first | rfl | exact id | exact fun _ h => h

/-- Time passes, DRV unchanged. -/
theorem Advances.wait (n : Nat) (s : State) : Advances s (waitTicks n s) := by
  constructor <;> first
    | rfl
    | exact id
    | exact Nat.le_add_right _ _
    | exact fun h p hp => Nat.le_trans (h p hp) (Nat.le_add_right _ _)
    | exact fun h h' => (drvAt_stable s.drvLog h (Nat.le_add_right _ _)).trans h'

theorem State.durOf_lt (s : State) (d : Nat) : s.durOf d < 2 ^ s.cfg.wTimer := Nat.mod_lt _ (Nat.two_pow_pos _)

/-- DUR takes a measured duration. -/
theorem Advances.measure (s : State) (d : Nat) : Advances s { s with dur := s.durOf d } := by
  constructor <;> first | rfl | exact id | exact fun _ => s.durOf_lt d | exact fun _ h => h

/-- The core drives for n ticks and releases the line. -/
theorem Advances.drive (n : Nat) (s : State) : Advances s (setDrv false (waitTicks n (setDrv true s))) := by
  constructor <;> first
    | rfl
    | exact id
    | exact fun _ => rfl
    | exact Nat.le_add_right _ _
    | skip
  · intro h p hp
    simp only [setDrv_drvLog, waitTicks_drvLog, waitTicks_now, setDrv_now, List.mem_cons] at hp ⊢
    rcases hp with rfl | rfl | hp
    · exact Nat.le_refl _
    · exact Nat.le_add_right _ _
    · exact Nat.le_trans (h p hp) (Nat.le_add_right _ _)
  · intro _ _
    simp [drvAt]

theorem Advances.waitFor (lvl : Level) (limit : Nat) (s : State) : Advances s (waitFor lvl limit s).2 := by
  rcases waitFor_cases lvl limit s with ⟨e, -, -, -, h⟩ | ⟨-, h⟩ <;> rw [h] <;> exact Advances.wait _ s

/-! ## Transmit -/

theorem Advances.txPulse (d f : Nat) (s : State) : Advances s (txPulse d f s) :=
  (Advances.drive d s).trans (Advances.wait f _)

theorem Advances.txBit (v : Bool) (s : State) : Advances s (txBit v s) := Advances.txPulse _ _ s

theorem Advances.txStart (s : State) : Advances s (txStart s) := Advances.txPulse _ _ s

theorem Advances.txBits (v : BitVec 12) (k : Nat) (s : State) : Advances s (txBits v k s) := by
  induction k generalizing s with
  | zero => exact Advances.refl s
  | succ k ih =>
    exact ((Advances.txBit _ s).trans (Advances.scratch _ _ _ _ _ _)).trans (ih _)

theorem Advances.txField (n : Nat) (v : BitVec 12) (s : State) : Advances s (txField n v s) :=
  ((Advances.scratch s _ _ _ _ _).trans (Advances.txBits _ n _)).trans (Advances.txBit _ _)

theorem Advances.sendAt (p : FieldPos) (s : State) : Advances s (sendAt p s) := Advances.scratch s _ _ _ _ _

theorem Advances.readAt (p : FieldPos) (s : State) : Advances s (readAt p s) := Advances.scratch s _ _ _ _ _

theorem Advances.ackRead (s : State) : Advances s (ackRead s).2 := by
  unfold Machine.ackRead
  have h0 := Advances.drive s.cfg.t1Driven s
  have hw := Advances.waitFor .recessive
    ((setDrv false (waitTicks s.cfg.t1Driven (setDrv true s))).cfg.rxTimeout -
      (setDrv false (waitTicks s.cfg.t1Driven (setDrv true s))).cfg.t1Driven)
    (setDrv false (waitTicks s.cfg.t1Driven (setDrv true s)))
  dsimp only
  split
  · rename_i s' heq
    rw [heq] at hw
    exact (h0.trans hw).trans (Advances.measure s' _)
  · rename_i e s' heq
    rw [heq] at hw
    exact ((h0.trans hw).trans (Advances.measure s' _)).trans (Advances.wait _ _)

/-! ## Steps that may raise -/

/-- Both outcomes of a step satisfy a property of the state. -/
def Res.Ends {α : Type} (P : State → Prop) : Res α → Prop
  | .ok _ s => P s
  | .err _ s => P s

theorem Res.Ends.andThen {α β : Type} {s : State} {r : Res α} {k : α → State → Res β}
    (hr : r.Ends (Advances s)) (hk : ∀ a t, (k a t).Ends (Advances t)) : (r.andThen k).Ends (Advances s) := by
  cases r with
  | err e t => exact hr
  | ok a t =>
    have h := hk a t
    show (k a t).Ends (Advances s)
    cases hkt : k a t with
    | ok b u => rw [hkt] at h; exact Advances.trans hr h
    | err e u => rw [hkt] at h; exact Advances.trans hr h

theorem Res.Ends.atPos {α : Type} {P : State → Prop} {r : Res α} {f : FieldPos} {i : BitVec 6} (hr : r.Ends P) :
    (r.atPos f i).Ends P := by cases r <;> exact hr

theorem Res.Ends.pre {α : Type} {s t : State} {r : Res α} (h : Advances s t) (hr : r.Ends (Advances t)) :
    r.Ends (Advances s) := by cases r <;> exact h.trans hr

/-- Everything RX_BIT can do as a step (R113): no pulse begins; it does not end; it is too long; it is a bit. -/
theorem rxBit_cases (s : State) :
    ((∀ k < s.cfg.rxTimeout, s.line (s.now + k) ≠ .dominant) ∧
        rxBit s = .err (raised .desync) (waitTicks s.cfg.rxTimeout s)) ∨
      ∃ g, g < s.cfg.rxTimeout ∧ s.line (s.now + g) = .dominant ∧ (∀ k < g, s.line (s.now + k) ≠ .dominant) ∧
        (((∀ k < s.cfg.rxTimeout, s.line (s.now + g + k) ≠ .recessive) ∧
            rxBit s = .err (raised .desync)
              { waitTicks s.cfg.rxTimeout (waitTicks g s) with dur := s.durOf s.cfg.rxTimeout }) ∨
          ∃ d, d < s.cfg.rxTimeout ∧ s.line (s.now + g + d) = .recessive ∧
            (∀ k < d, s.line (s.now + g + k) ≠ .recessive) ∧
            ((classifyData s.cfg d = none ∧
                rxBit s = .err (raised .desync) { waitTicks d (waitTicks g s) with dur := s.durOf d }) ∨
              ∃ b, classifyData s.cfg d = some b ∧
                rxBit s = .ok b { waitTicks d (waitTicks g s) with
                  dur := s.durOf d, par := accumulate s.par b })) := by
  unfold rxBit
  rcases waitFor_cases .dominant s.cfg.rxTimeout s with ⟨g, hg, hl, hb, h⟩ | ⟨hb, h⟩
  · refine .inr ⟨g, hg, hl, hb, ?_⟩
    rw [h]
    rcases waitFor_cases .recessive s.cfg.rxTimeout (waitTicks g s) with ⟨d, hd, hl', hb', h'⟩ | ⟨hb', h'⟩
    · refine .inr ⟨d, hd, hl', hb', ?_⟩
      dsimp only [waitTicks_cfg]
      rw [h']
      cases hc : classifyData s.cfg d with
      | none => exact .inl ⟨rfl, by simp [hc]; rfl⟩
      | some b => exact .inr ⟨b, rfl, by simp [hc]; rfl⟩
    · refine .inl ⟨hb', ?_⟩
      dsimp only [waitTicks_cfg]
      rw [h']
      rfl
  · exact .inl ⟨hb, by rw [h]⟩

theorem Advances.rxBit (s : State) : (rxBit s).Ends (Advances s) := by
  rcases rxBit_cases s with ⟨-, h⟩ | ⟨g, -, -, -, ⟨-, h⟩ | ⟨d, -, -, -, ⟨-, h⟩ | ⟨b, -, h⟩⟩⟩ <;> rw [h]
  · exact Advances.wait _ s
  · exact ((Advances.wait g s).trans (Advances.wait _ _)).trans (Advances.measure _ _)
  · exact ((Advances.wait g s).trans (Advances.wait _ _)).trans (Advances.measure _ _)
  · exact (((Advances.wait g s).trans (Advances.wait d _)).trans (Advances.measure _ _)).trans
      (Advances.scratch _ _ _ _ _ _)

theorem Advances.rxBits (k : Nat) (s : State) : (rxBits k s).Ends (Advances s) := by
  induction k generalizing s with
  | zero => exact Advances.refl s
  | succ k ih =>
    exact (Advances.rxBit s).andThen fun b t => Res.Ends.pre (Advances.scratch t _ _ _ _ _) (ih _)

theorem Advances.rxField (n : Nat) (s : State) : (rxField n s).Ends (Advances s) :=
  (Res.Ends.pre (Advances.scratch s _ _ _ _ _) (Advances.rxBits n _)).andThen fun _ t => Advances.refl t

/-- Everything RX_START can do as a step (R116). -/
theorem rxStart_cases (s : State) :
    ((∀ k < s.cfg.rxTimeout, s.line (s.now + k) ≠ .dominant) ∧
        rxStart s = .err (raised .desync) (waitTicks s.cfg.rxTimeout s)) ∨
      ∃ g, g < s.cfg.rxTimeout ∧ s.line (s.now + g) = .dominant ∧ (∀ k < g, s.line (s.now + k) ≠ .dominant) ∧
        (((∀ k < s.cfg.tStartMax + 1, s.line (s.now + g + k) ≠ .recessive) ∧
            rxStart s = .err (raised .startLong)
              { waitTicks (s.cfg.tStartMax + 1) (waitTicks g s) with dur := s.durOf (s.cfg.tStartMax + 1) }) ∨
          ∃ d, d < s.cfg.tStartMax + 1 ∧ s.line (s.now + g + d) = .recessive ∧
            (∀ k < d, s.line (s.now + g + k) ≠ .recessive) ∧
            ((d < s.cfg.tStartMin ∧
                rxStart s = .err (raised .startShort) { waitTicks d (waitTicks g s) with dur := s.durOf d }) ∨
              (s.cfg.tStartMin ≤ d ∧ rxStart s = .ok () { waitTicks d (waitTicks g s) with dur := s.durOf d }))) := by
  unfold rxStart
  rcases waitFor_cases .dominant s.cfg.rxTimeout s with ⟨g, hg, hl, hb, h⟩ | ⟨hb, h⟩
  · refine .inr ⟨g, hg, hl, hb, ?_⟩
    rw [h]
    rcases waitFor_cases .recessive (s.cfg.tStartMax + 1) (waitTicks g s) with ⟨d, hd, hl', hb', h'⟩ | ⟨hb', h'⟩
    · refine .inr ⟨d, hd, hl', hb', ?_⟩
      dsimp only [waitTicks_cfg]
      rw [h']
      by_cases hc : d < s.cfg.tStartMin
      · exact .inl ⟨hc, by simp [classifyStart, hc]; rfl⟩
      · refine .inr ⟨Nat.le_of_not_lt hc, ?_⟩
        have : ¬ d > s.cfg.tStartMax := by omega
        simp [classifyStart, hc, this]; rfl
    · refine .inl ⟨hb', ?_⟩
      dsimp only [waitTicks_cfg]
      rw [h']
      rfl
  · exact .inl ⟨hb, by rw [h]⟩

theorem Advances.rxStart (s : State) : (rxStart s).Ends (Advances s) := by
  rcases rxStart_cases s with ⟨-, h⟩ | ⟨g, -, -, -, ⟨-, h⟩ | ⟨d, -, -, -, ⟨-, h⟩ | ⟨-, h⟩⟩⟩ <;> rw [h]
  · exact Advances.wait _ s
  all_goals exact ((Advances.wait g s).trans (Advances.wait _ _)).trans (Advances.measure _ _)

/-- Everything ACK_SEND can do as a step (R118). -/
theorem ackSend_cases (s : State) :
    ((∀ k < s.cfg.rxTimeout, s.line (s.now + k) ≠ .dominant) ∧
        ackSend s = .err (raised .desync) (waitTicks s.cfg.rxTimeout s)) ∨
      ∃ g, g < s.cfg.rxTimeout ∧ s.line (s.now + g) = .dominant ∧ (∀ k < g, s.line (s.now + k) ≠ .dominant) ∧
        ∃ t, t = setDrv false (waitTicks s.cfg.t0Driven (setDrv true (waitTicks g s))) ∧
          (((∀ k < s.cfg.rxTimeout, t.line (t.now + k) ≠ .recessive) ∧
              ackSend s = .err (raised .desync) (waitTicks s.cfg.rxTimeout t)) ∨
            ∃ e, e < s.cfg.rxTimeout ∧ t.line (t.now + e) = .recessive ∧ (∀ k < e, t.line (t.now + k) ≠ .recessive) ∧
              ackSend s = .ok () (waitTicks e t)) := by
  unfold ackSend
  rcases waitFor_cases .dominant s.cfg.rxTimeout s with ⟨g, hg, hl, hb, h⟩ | ⟨hb, h⟩
  · refine .inr ⟨g, hg, hl, hb, _, rfl, ?_⟩
    rw [h]
    rcases waitFor_cases .recessive s.cfg.rxTimeout
        (setDrv false (waitTicks s.cfg.t0Driven (setDrv true (waitTicks g s)))) with ⟨e, he, hl', hb', h'⟩ | ⟨hb', h'⟩
    · refine .inr ⟨e, he, hl', hb', ?_⟩
      dsimp only [waitTicks_cfg]
      rw [h']
    · refine .inl ⟨hb', ?_⟩
      dsimp only [waitTicks_cfg]
      rw [h']
  · exact .inl ⟨hb, by rw [h]⟩

theorem Advances.ackSend (s : State) : (ackSend s).Ends (Advances s) := by
  rcases ackSend_cases s with ⟨-, h⟩ | ⟨g, -, -, -, t, ht, ⟨-, h⟩ | ⟨e, -, -, -, h⟩⟩ <;> rw [h]
  · exact Advances.wait _ s
  all_goals
    subst ht
    exact ((Advances.wait g s).trans (Advances.drive _ _)).trans (Advances.wait _ _)

/-! ## The steps of SEND_FRAME and READ_FRAME -/

theorem Advances.txAck (u : Bool) (f : FieldPos) (i : BitVec 6) (s : State) : (txAck u f i s).Ends (Advances s) := by
  unfold Machine.txAck
  have h := (Advances.sendAt f s).trans (Advances.ackRead (Machine.sendAt f s))
  split
  · dsimp only
    split <;> exact h
  · exact Advances.refl s

theorem Advances.txHead (u : Bool) (snd rcv : Addr) (ctl : BitVec 4) (len : BitVec 8) (s : State) :
    (txHead u snd rcv ctl len s).Ends (Advances s) := by
  unfold Machine.txHead
  refine Res.Ends.andThen (Res.Ends.pre ?_ (Advances.txAck _ _ _ _)) fun _ t =>
    Res.Ends.andThen (Res.Ends.pre ((Advances.sendAt _ t).trans (Advances.txField _ _ _)) (Advances.txAck _ _ _ _))
      fun _ t => Res.Ends.pre ((Advances.sendAt _ t).trans (Advances.txField _ _ _)) (Advances.txAck _ _ _ _)
  exact (((((((Advances.sendAt _ s).trans (Advances.txStart _)).trans (Advances.sendAt _ _)).trans
    (Advances.txBit _ _)).trans (Advances.sendAt _ _)).trans (Advances.txField _ _ _)).trans
    (Advances.sendAt _ _)).trans (Advances.txField _ _ _)

theorem Advances.txData (u : Bool) (d : Byte) (i : BitVec 6) (s : State) : (txData u d i s).Ends (Advances s) :=
  Res.Ends.pre ((Advances.sendAt _ s).trans (Advances.txField _ _ _)) (Advances.txAck _ _ _ _)

theorem Advances.txPayload (u : Bool) (pay : Memory) (k i : Nat) (s : State) :
    (txPayload u pay k i s).Ends (Advances s) := by
  induction k generalizing i s with
  | zero => exact Advances.refl s
  | succ k ih =>
    exact Res.Ends.andThen (Res.Ends.pre (Advances.scratch s _ _ _ _ _) (Advances.txData _ _ _ _)) fun _ t => ih _ t

theorem Advances.txFrame (f : Frame) (s : State) : (txFrame f s).Ends (Advances s) :=
  (Advances.txHead _ _ _ _ _ s).andThen fun _ t => Advances.txPayload _ _ _ _ t

theorem Advances.rxGroup (n : Nat) (f : FieldPos) (i : BitVec 6) (s : State) : (rxGroup n f i s).Ends (Advances s) := by
  unfold Machine.rxGroup
  refine Res.Ends.andThen (Res.Ends.pre ((Advances.readAt f s).trans (Advances.scratch _ _ _ _ _ _))
    (Advances.rxField n _)).atPos fun v t => Res.Ends.andThen (Advances.rxBit t).atPos fun p u => ?_
  split <;> exact Advances.refl u

theorem Advances.rxAck (u forme : Bool) (f : FieldPos) (i : BitVec 6) (s : State) :
    (rxAck u forme f i s).Ends (Advances s) := by
  unfold Machine.rxAck
  split
  · split
    · exact (Res.Ends.pre (Advances.readAt f s) (Advances.ackSend _)).atPos
    · exact ((Res.Ends.pre (Advances.readAt f s) (Advances.rxBit _)).atPos).andThen fun _ t => Advances.refl t
  · exact Advances.refl s

/-- The working frame takes a field. -/
theorem Advances.work (s : State) (f : Frame) (h : s.wfr.frame.pay.wf = true → f.pay.wf = true) :
    Advances s (setWork f s) := by
  constructor <;> first | rfl | exact id | exact h | exact fun _ h => h

theorem Advances.rxPayload (u forme : Bool) (k i : Nat) (hi : i + k ≤ 32) (s : State) :
    (rxPayload u forme k i s).Ends (Advances s) := by
  induction k generalizing i s with
  | zero => exact Advances.refl s
  | succ k ih =>
    refine Res.Ends.andThen (Res.Ends.pre (Advances.scratch s _ _ _ _ _) (Advances.rxGroup _ _ _ _)) fun v t => ?_
    refine Res.Ends.andThen (Res.Ends.pre
      (by exact Advances.work t _ (fun h => Memory.wf_write _ _ (by omega) h)) (Advances.rxAck _ _ _ _ _)) fun _ w => ?_
    exact ih (i + 1) (by omega) w

theorem Advances.rxFrame (s : State) : (rxFrame s).Ends (Advances s) := by
  unfold Machine.rxFrame
  refine Res.Ends.andThen (Res.Ends.pre (Advances.readAt _ s) (Advances.rxStart _)).atPos fun _ s => ?_
  refine Res.Ends.andThen (Res.Ends.pre (Advances.readAt _ s) (Advances.rxBit _)).atPos fun m s => ?_
  refine Res.Ends.andThen (Res.Ends.pre (by exact Advances.work s _ id)
    (Advances.rxGroup _ _ _ _)) fun v s => ?_
  refine Res.Ends.andThen (Res.Ends.pre (by exact Advances.work s _ id)
    (Advances.rxGroup _ _ _ _)) fun v s => ?_
  refine Res.Ends.andThen (Res.Ends.pre (by exact Advances.work s _ id)
    (Advances.rxAck _ _ _ _ _)) fun _ s => ?_
  refine Res.Ends.andThen (Advances.rxGroup _ _ _ s) fun v s => ?_
  refine Res.Ends.andThen (Res.Ends.pre (by exact Advances.work s _ id)
    (Advances.rxAck _ _ _ _ _)) fun _ s => ?_
  refine Res.Ends.andThen (Advances.rxGroup _ _ _ s) fun v s => ?_
  split
  · rename_i hl
    have hv : v.toNat ≤ 32 := by simp [lengthLegal] at hl; exact hl.2
    refine Res.Ends.andThen (Res.Ends.pre (by exact Advances.work s _ id)
      (Advances.rxAck _ _ _ _ _)) fun _ s => ?_
    exact Res.Ends.andThen (Advances.rxPayload _ _ _ 0 (by omega) s) fun _ s => Advances.refl s
  · exact Advances.refl s

end Sys2Proof.Machine
end

