-- ==== Sys2Proof/Laws/Exit.lean ====
section
/-! SUPPORT. What the masked section, the exit of a frame operation and the queue can do, said once (R141, R151, R206,
R207). -/

namespace Sys2Proof.Machine

/-! ## The masked section -/

/-- Everything the restoring of MASKED can do (R141). -/
theorem restoreMask_cases (p : Bool) (s : State) :
    (p = false ∧ s.tickLatch = true ∧
        restoreMask p s = tickEffect { s with masked := false, tickLatch := false }) ∨
      ((p = true ∨ s.tickLatch = false) ∧ restoreMask p s = { s with masked := p }) := by
  cases p <;> cases h : s.tickLatch <;> simp [restoreMask, h]

@[simp] theorem restoreMask_cfg (p : Bool) (s : State) : (restoreMask p s).cfg = s.cfg := by
  unfold restoreMask; split <;> simp [tickEffect]
@[simp] theorem restoreMask_rxf (p : Bool) (s : State) : (restoreMask p s).rxf = s.rxf := by
  unfold restoreMask; split <;> simp [tickEffect]
@[simp] theorem restoreMask_txf (p : Bool) (s : State) : (restoreMask p s).txf = s.txf := by
  unfold restoreMask; split <;> simp [tickEffect]
@[simp] theorem restoreMask_shift (p : Bool) (s : State) : (restoreMask p s).shift = s.shift := by
  unfold restoreMask; split <;> simp [tickEffect]
@[simp] theorem restoreMask_bitcnt (p : Bool) (s : State) : (restoreMask p s).bitcnt = s.bitcnt := by
  unfold restoreMask; split <;> simp [tickEffect]
@[simp] theorem restoreMask_dur (p : Bool) (s : State) : (restoreMask p s).dur = s.dur := by
  unfold restoreMask; split <;> simp [tickEffect]
@[simp] theorem restoreMask_idx (p : Bool) (s : State) : (restoreMask p s).idx = s.idx := by
  unfold restoreMask; split <;> simp [tickEffect]
@[simp] theorem restoreMask_att (p : Bool) (s : State) : (restoreMask p s).att = s.att := by
  unfold restoreMask; split <;> simp [tickEffect]
@[simp] theorem restoreMask_wfr (p : Bool) (s : State) : (restoreMask p s).wfr = s.wfr := by
  unfold restoreMask; split <;> simp [tickEffect]
@[simp] theorem restoreMask_par (p : Bool) (s : State) : (restoreMask p s).par = s.par := by
  unfold restoreMask; split <;> simp [tickEffect]
@[simp] theorem restoreMask_masked (p : Bool) (s : State) : (restoreMask p s).masked = p := by
  rcases restoreMask_cases p s with ⟨hp, -, h⟩ | ⟨-, h⟩ <;> rw [h]
  · exact hp.symm
@[simp] theorem restoreMask_tickLatch (p : Bool) (s : State) : (restoreMask p s).tickLatch = (p && s.tickLatch) := by
  rcases restoreMask_cases p s with ⟨hp, hl, h⟩ | ⟨hp | hp, h⟩ <;> rw [h] <;> simp [hp]
@[simp] theorem restoreMask_drv (p : Bool) (s : State) : (restoreMask p s).drv = s.drv := by
  unfold restoreMask; split <;> simp [tickEffect]
@[simp] theorem restoreMask_timerBase (p : Bool) (s : State) : (restoreMask p s).timerBase = s.timerBase := by
  unfold restoreMask; split <;> simp [tickEffect]
@[simp] theorem restoreMask_seq (p : Bool) (s : State) : (restoreMask p s).seq = s.seq := by
  unfold restoreMask; split <;> simp [tickEffect]
@[simp] theorem restoreMask_result (p : Bool) (s : State) : (restoreMask p s).result = s.result := by
  unfold restoreMask; split <;> simp [tickEffect]
@[simp] theorem restoreMask_act (p : Bool) (s : State) : (restoreMask p s).act = s.act := by
  unfold restoreMask; split <;> simp [tickEffect]
@[simp] theorem restoreMask_val (p : Bool) (s : State) : (restoreMask p s).val = s.val := by
  unfold restoreMask; split <;> simp [tickEffect]
@[simp] theorem restoreMask_slots (p : Bool) (s : State) : (restoreMask p s).slots = s.slots := by
  unfold restoreMask; split <;> simp [tickEffect]
@[simp] theorem restoreMask_qw (p : Bool) (s : State) : (restoreMask p s).qw = s.qw := by
  unfold restoreMask; split <;> simp [tickEffect]
@[simp] theorem restoreMask_qr (p : Bool) (s : State) : (restoreMask p s).qr = s.qr := by
  unfold restoreMask; split <;> simp [tickEffect]
@[simp] theorem restoreMask_ovfCount (p : Bool) (s : State) : (restoreMask p s).ovfCount = s.ovfCount := by
  unfold restoreMask; split <;> simp [tickEffect]
@[simp] theorem restoreMask_dropCount (p : Bool) (s : State) : (restoreMask p s).dropCount = s.dropCount := by
  unfold restoreMask; split <;> simp [tickEffect]
@[simp] theorem restoreMask_now (p : Bool) (s : State) : (restoreMask p s).now = s.now := by
  unfold restoreMask; split <;> simp [tickEffect]
@[simp] theorem restoreMask_env (p : Bool) (s : State) : (restoreMask p s).env = s.env := by
  unfold restoreMask; split <;> simp [tickEffect]
@[simp] theorem restoreMask_arrivals (p : Bool) (s : State) : (restoreMask p s).arrivals = s.arrivals := by
  unfold restoreMask; split <;> simp [tickEffect]
@[simp] theorem restoreMask_inputs (p : Bool) (s : State) : (restoreMask p s).inputs = s.inputs := by
  unfold restoreMask; split <;> simp [tickEffect]
@[simp] theorem restoreMask_diag (p : Bool) (s : State) : (restoreMask p s).diag = s.diag := by
  unfold restoreMask; split <;> simp [tickEffect]
@[simp] theorem restoreMask_drvLog (p : Bool) (s : State) : (restoreMask p s).drvLog = s.drvLog := by
  unfold restoreMask; split <;> simp [tickEffect]
@[simp] theorem restoreMask_draws (p : Bool) (s : State) : (restoreMask p s).draws = s.draws := by
  unfold restoreMask; split <;> simp [tickEffect]

/-- An arrival at an operation boundary, latched or served (R240, R241). -/
theorem deliverTick_cases (s : State) :
    (s.masked = true ∧ deliverTick s = { s with tickLatch := true }) ∨ (s.masked = false ∧ deliverTick s = tickEffect s) := by
  cases h : s.masked <;> simp [deliverTick, h]

/-! ## The exit of a frame operation -/

@[simp] theorem exitFrame_cfg (prev : Bool) (r : ResultReg) (s : State) : (exitFrame prev r s).cfg = s.cfg := by
  unfold exitFrame; simp only [restoreMask_cfg]; split <;> simp [abortBus]
@[simp] theorem exitFrame_rxf (prev : Bool) (r : ResultReg) (s : State) : (exitFrame prev r s).rxf = s.rxf := by
  unfold exitFrame; simp only [restoreMask_rxf]; split <;> simp [abortBus]
@[simp] theorem exitFrame_txf (prev : Bool) (r : ResultReg) (s : State) : (exitFrame prev r s).txf = s.txf := by
  unfold exitFrame; simp only [restoreMask_txf]; split <;> simp [abortBus]
@[simp] theorem exitFrame_dur (prev : Bool) (r : ResultReg) (s : State) : (exitFrame prev r s).dur = s.dur := by
  unfold exitFrame; simp only [restoreMask_dur]; split <;> simp [abortBus]
@[simp] theorem exitFrame_att (prev : Bool) (r : ResultReg) (s : State) : (exitFrame prev r s).att = s.att := by
  unfold exitFrame; simp only [restoreMask_att]; split <;> simp [abortBus]
@[simp] theorem exitFrame_par (prev : Bool) (r : ResultReg) (s : State) : (exitFrame prev r s).par = s.par := by
  unfold exitFrame; simp only [restoreMask_par]; split <;> simp [abortBus]
@[simp] theorem exitFrame_masked (prev : Bool) (r : ResultReg) (s : State) : (exitFrame prev r s).masked = prev := by
  unfold exitFrame; simp only [restoreMask_masked]
@[simp] theorem exitFrame_tickLatch (prev : Bool) (r : ResultReg) (s : State) : (exitFrame prev r s).tickLatch = (prev && (s.tickLatch || s.arrivals.any (fun t => decide (t < s.now)))) := by
  unfold exitFrame; simp only [restoreMask_tickLatch]; split <;> simp [abortBus]
@[simp] theorem exitFrame_drv (prev : Bool) (r : ResultReg) (s : State) : (exitFrame prev r s).drv = false := by
  unfold exitFrame; simp only [restoreMask_drv]; split <;> simp [abortBus]
@[simp] theorem exitFrame_timerBase (prev : Bool) (r : ResultReg) (s : State) : (exitFrame prev r s).timerBase = s.timerBase := by
  unfold exitFrame; simp only [restoreMask_timerBase]; split <;> simp [abortBus]
@[simp] theorem exitFrame_seq (prev : Bool) (r : ResultReg) (s : State) : (exitFrame prev r s).seq = .idle := by
  unfold exitFrame; simp only [restoreMask_seq]; split <;> simp [abortBus]
@[simp] theorem exitFrame_result (prev : Bool) (r : ResultReg) (s : State) : (exitFrame prev r s).result = r := by
  unfold exitFrame; simp only [restoreMask_result]; split <;> simp [abortBus]
@[simp] theorem exitFrame_act (prev : Bool) (r : ResultReg) (s : State) : (exitFrame prev r s).act = s.act := by
  unfold exitFrame; simp only [restoreMask_act]; split <;> simp [abortBus]
@[simp] theorem exitFrame_val (prev : Bool) (r : ResultReg) (s : State) : (exitFrame prev r s).val = s.val := by
  unfold exitFrame; simp only [restoreMask_val]; split <;> simp [abortBus]
@[simp] theorem exitFrame_slots (prev : Bool) (r : ResultReg) (s : State) : (exitFrame prev r s).slots = s.slots := by
  unfold exitFrame; simp only [restoreMask_slots]; split <;> simp [abortBus]
@[simp] theorem exitFrame_qw (prev : Bool) (r : ResultReg) (s : State) : (exitFrame prev r s).qw = s.qw := by
  unfold exitFrame; simp only [restoreMask_qw]; split <;> simp [abortBus]
@[simp] theorem exitFrame_qr (prev : Bool) (r : ResultReg) (s : State) : (exitFrame prev r s).qr = s.qr := by
  unfold exitFrame; simp only [restoreMask_qr]; split <;> simp [abortBus]
@[simp] theorem exitFrame_ovfCount (prev : Bool) (r : ResultReg) (s : State) : (exitFrame prev r s).ovfCount = s.ovfCount := by
  unfold exitFrame; simp only [restoreMask_ovfCount]; split <;> simp [abortBus]
@[simp] theorem exitFrame_dropCount (prev : Bool) (r : ResultReg) (s : State) : (exitFrame prev r s).dropCount = s.dropCount := by
  unfold exitFrame; simp only [restoreMask_dropCount]; split <;> simp [abortBus]
@[simp] theorem exitFrame_now (prev : Bool) (r : ResultReg) (s : State) : (exitFrame prev r s).now = s.now := by
  unfold exitFrame; simp only [restoreMask_now]; split <;> simp [abortBus]
@[simp] theorem exitFrame_env (prev : Bool) (r : ResultReg) (s : State) : (exitFrame prev r s).env = s.env := by
  unfold exitFrame; simp only [restoreMask_env]; split <;> simp [abortBus]
@[simp] theorem exitFrame_arrivals (prev : Bool) (r : ResultReg) (s : State) : (exitFrame prev r s).arrivals = s.arrivals.filter (fun t => !decide (t < s.now)) := by
  unfold exitFrame; simp only [restoreMask_arrivals]; split <;> simp [abortBus]
@[simp] theorem exitFrame_inputs (prev : Bool) (r : ResultReg) (s : State) : (exitFrame prev r s).inputs = s.inputs := by
  unfold exitFrame; simp only [restoreMask_inputs]; split <;> simp [abortBus]
@[simp] theorem exitFrame_diag (prev : Bool) (r : ResultReg) (s : State) : (exitFrame prev r s).diag = if r.code = .ok then s.diag else s.diag ++ [r] := by
  unfold exitFrame; simp only [restoreMask_diag]; split <;> simp [abortBus]
@[simp] theorem exitFrame_drvLog (prev : Bool) (r : ResultReg) (s : State) : (exitFrame prev r s).drvLog = (s.now, false) :: s.drvLog := by
  unfold exitFrame; simp only [restoreMask_drvLog]; split <;> simp [abortBus]

/-- DS and RESP_PENDING after a frame operation: those of TICK when the exit serves one, else untouched (R151, R247). -/
theorem exitFrame_device (prev : Bool) (r : ResultReg) (s : State) :
    (exitFrame prev r s).ds =
        (if !prev && (s.tickLatch || s.arrivals.any (fun t => decide (t < s.now))) then (tickEffect s).ds else s.ds) ∧
      (exitFrame prev r s).respPending =
        (if !prev && (s.tickLatch || s.arrivals.any (fun t => decide (t < s.now))) then (tickEffect s).respPending
          else s.respPending) := by
  unfold exitFrame
  have key : ∀ t : State, t.tickLatch = (s.tickLatch || s.arrivals.any (fun t => decide (t < s.now))) → t.ds = s.ds →
      t.respPending = s.respPending → t.cfg = s.cfg →
      (restoreMask prev t).ds =
          (if !prev && (s.tickLatch || s.arrivals.any (fun t => decide (t < s.now))) then (tickEffect s).ds else s.ds) ∧
        (restoreMask prev t).respPending =
          (if !prev && (s.tickLatch || s.arrivals.any (fun t => decide (t < s.now))) then (tickEffect s).respPending
            else s.respPending) := by
    intro t hl hd hr hc
    rw [← hl]
    rcases restoreMask_cases prev t with ⟨hp, ht, h⟩ | ⟨hp | hp, h⟩ <;> rw [h]
    · simp [hp, ht, tickEffect, hd, hr, hc]
    · simp [hp, hd, hr]
    · simp [hp, hd, hr]
  refine key _ ?_ ?_ ?_ ?_ <;> (split <;> simp [abortBus])

/-- The free payload of an aborted operation is in canonical form (U7). -/
theorem freePayload_wf (draw n : Nat) (h : n ≤ 32) : (freePayload draw n).wf = true := by
  induction n with
  | zero => rfl
  | succ k ih => exact Memory.wf_write _ _ (by omega) (ih (by omega))

theorem exitFrame_wfrMemory (prev : Bool) (r : ResultReg) (s : State) (h : s.wfr.frame.pay.wf = true) :
    (exitFrame prev r s).wfr.frame.pay.wf = true := by
  unfold exitFrame
  simp only [restoreMask_wfr]
  split
  · exact h
  · exact freePayload_wf _ 32 (Nat.le_refl _)

/-! ## The queue -/

/-- Everything a push can do (R206). -/
theorem push_cases (f : Frame) (s : State) :
    (s.queued = s.cfg.queueCap ∧
        push f s = (false, emit (raised .overflow) { s with ovfCount := saturatingSucc s.ovfCount })) ∨
      (s.queued ≠ s.cfg.queueCap ∧
        push f s = (true, { s with slots := slotWrite s.slots (s.slotOf s.qw) f, qw := s.qw + 1#8 })) := by
  by_cases h : s.queued = s.cfg.queueCap <;> simp [push, h]

/-- The number of queued frames after a push into a queue that is not full (R208). -/
theorem queued_succ {s : State} (h : s.queued < 128) : (s.qw + 1#8 - s.qr).toNat = s.queued + 1 := by
  unfold State.queued at *
  have : s.qw + 1#8 - s.qr = (s.qw - s.qr) + 1#8 := by bv_omega
  rw [this]
  generalize s.qw - s.qr = x at h ⊢
  rw [BitVec.toNat_add]
  show (x.toNat + 1) % 256 = x.toNat + 1
  omega

/-- The number of queued frames after a pop from a queue that is not empty (R208). -/
theorem queued_pred {s : State} (h : s.qw ≠ s.qr) : (s.qw - (s.qr + 1#8)).toNat + 1 = s.queued := by
  unfold State.queued
  have h0 : s.qw - s.qr ≠ 0#8 := fun h' => h (by bv_omega)
  have h1 : (s.qw - s.qr).toNat ≠ 0 := fun h' => h0 (BitVec.eq_of_toNat_eq (by simpa using h'))
  have : s.qw - (s.qr + 1#8) = (s.qw - s.qr) - 1#8 := by bv_omega
  rw [this]
  bv_omega

/-- A frame built from a template whose bytes and patches lie in the buffer has its payload in canonical form (R203). -/
theorem buildFrame_wf (c : Config) (ds : DeviceState) (t : Template) (slot : Memory)
    (hlen : t.bytes.length ≤ 32) (hp : ∀ p ∈ t.patches, p.1 < 32) (hs : slot.wf = true) :
    (buildFrame c ds t slot).pay.wf = true := by
  have key : ∀ (ps : List (Nat × PatchSource)) (m : Memory), (∀ p ∈ ps, p.1 < 32) → m.wf = true →
      (applyPatches c ds ps m).wf = true := by
    intro ps
    induction ps with
    | nil => exact fun m _ h => h
    | cons p ps ih =>
      obtain ⟨off, src⟩ := p
      exact fun m hm h => ih _ (fun q hq => hm q (by simp [hq])) (Memory.wf_write _ _ (hm (off, src) (by simp)) h)
  exact key _ _ hp (Memory.wf_writeBytes _ _ _ (by omega) hs)

end Sys2Proof.Machine
end

