-- ==== Sys2Proof/Laws/PerInstr.lean ====
section
/-! SUPPORT. One lemma per instruction: where it is encoded. A row of format OP is a word of the host port with the
row's code (R95); a row of the wire is symbols (R80, R82, R83). -/

namespace Sys2Proof.Laws

/-- The OP code of a row (R95, R97); the rows of the wire have none. -/
def opCode : Instr → Option Nat
  | .nop => some 0x00
  | .txBit _ => some 0x01
  | .txStart => some 0x02
  | .txField _ _ => some 0x03
  | .rxBit => some 0x04
  | .rxField _ => some 0x05
  | .rxStart => some 0x06
  | .ackRead => some 0x07
  | .ackSend => some 0x08
  | .mask => some 0x09
  | .unmask _ => some 0x0A
  | .busFree => some 0x0B
  | .sendFrame => some 0x0C
  | .readFrame => some 0x0D
  | .dispatch => some 0x0E
  | .applyAction _ => some 0x0F
  | .tick => some 0x10
  | .respond _ => some 0x11
  | .buildStatus => some 0x12
  | .qPush => some 0x13
  | .qPop => some 0x14
  | .qDrain => some 0x15
  | .runStep => some 0x16
  | .wrTxf _ _ => some 0x17
  | .rdReg _ => some 0x18
  | .reset => some 0x19
  | .reserved1A => some 0x1A
  | .reserved1B => some 0x1B
  | .reserved1C => some 0x1C
  | .reserved1D => some 0x1D
  | .reserved1E => some 0x1E
  | .reserved1F => some 0x1F
  | .symbol1 => none
  | .symbol0 => none
  | .symbolStart => none
  | .ackSlot _ => none
  | .frameHeadUnicast _ _ _ _ => none
  | .frameHeadBroadcast _ _ _ _ => none
  | .dataGroupUnicast _ => none
  | .dataGroupBroadcast _ => none

/-- The encoding of an instruction stands at its row. -/
def EncodesAtItsRow.Statement (i : Instr) : Prop :=
  ∀ c : Config, match encode c i with
    | .port w => opCode i = some w.op.toNat
    | .wire _ _ => opCode i = none

theorem EncodesAtItsRow.nop : EncodesAtItsRow.Statement (.nop) :=
  fun _ => rfl
theorem EncodesAtItsRow.txBit : ∀ v, EncodesAtItsRow.Statement (.txBit v) :=
  fun _ _ => rfl
theorem EncodesAtItsRow.txStart : EncodesAtItsRow.Statement (.txStart) :=
  fun _ => rfl
theorem EncodesAtItsRow.txField : ∀ n v, EncodesAtItsRow.Statement (.txField n v) :=
  fun _ _ _ => rfl
theorem EncodesAtItsRow.rxBit : EncodesAtItsRow.Statement (.rxBit) :=
  fun _ => rfl
theorem EncodesAtItsRow.rxField : ∀ n, EncodesAtItsRow.Statement (.rxField n) :=
  fun _ _ => rfl
theorem EncodesAtItsRow.rxStart : EncodesAtItsRow.Statement (.rxStart) :=
  fun _ => rfl
theorem EncodesAtItsRow.ackRead : EncodesAtItsRow.Statement (.ackRead) :=
  fun _ => rfl
theorem EncodesAtItsRow.ackSend : EncodesAtItsRow.Statement (.ackSend) :=
  fun _ => rfl
theorem EncodesAtItsRow.mask : EncodesAtItsRow.Statement (.mask) :=
  fun _ => rfl
theorem EncodesAtItsRow.unmask : ∀ p, EncodesAtItsRow.Statement (.unmask p) :=
  fun _ _ => rfl
theorem EncodesAtItsRow.busFree : EncodesAtItsRow.Statement (.busFree) :=
  fun _ => rfl
theorem EncodesAtItsRow.sendFrame : EncodesAtItsRow.Statement (.sendFrame) :=
  fun _ => rfl
theorem EncodesAtItsRow.readFrame : EncodesAtItsRow.Statement (.readFrame) :=
  fun _ => rfl
theorem EncodesAtItsRow.dispatch : EncodesAtItsRow.Statement (.dispatch) :=
  fun _ => rfl
theorem EncodesAtItsRow.applyAction : ∀ a, EncodesAtItsRow.Statement (.applyAction a) :=
  fun _ _ => rfl
theorem EncodesAtItsRow.tick : EncodesAtItsRow.Statement (.tick) :=
  fun _ => rfl
theorem EncodesAtItsRow.respond : ∀ a, EncodesAtItsRow.Statement (.respond a) :=
  fun _ _ => rfl
theorem EncodesAtItsRow.buildStatus : EncodesAtItsRow.Statement (.buildStatus) :=
  fun _ => rfl
theorem EncodesAtItsRow.qPush : EncodesAtItsRow.Statement (.qPush) :=
  fun _ => rfl
theorem EncodesAtItsRow.qPop : EncodesAtItsRow.Statement (.qPop) :=
  fun _ => rfl
theorem EncodesAtItsRow.qDrain : EncodesAtItsRow.Statement (.qDrain) :=
  fun _ => rfl
theorem EncodesAtItsRow.runStep : EncodesAtItsRow.Statement (.runStep) :=
  fun _ => rfl
theorem EncodesAtItsRow.wrTxf : ∀ sel v, EncodesAtItsRow.Statement (.wrTxf sel v) :=
  fun _ _ _ => rfl
theorem EncodesAtItsRow.rdReg : ∀ sel, EncodesAtItsRow.Statement (.rdReg sel) :=
  fun _ _ => rfl
theorem EncodesAtItsRow.reset : EncodesAtItsRow.Statement (.reset) :=
  fun _ => rfl
theorem EncodesAtItsRow.reserved1A : EncodesAtItsRow.Statement (.reserved1A) :=
  fun _ => rfl
theorem EncodesAtItsRow.reserved1B : EncodesAtItsRow.Statement (.reserved1B) :=
  fun _ => rfl
theorem EncodesAtItsRow.reserved1C : EncodesAtItsRow.Statement (.reserved1C) :=
  fun _ => rfl
theorem EncodesAtItsRow.reserved1D : EncodesAtItsRow.Statement (.reserved1D) :=
  fun _ => rfl
theorem EncodesAtItsRow.reserved1E : EncodesAtItsRow.Statement (.reserved1E) :=
  fun _ => rfl
theorem EncodesAtItsRow.reserved1F : EncodesAtItsRow.Statement (.reserved1F) :=
  fun _ => rfl
theorem EncodesAtItsRow.symbol1 : EncodesAtItsRow.Statement (.symbol1) :=
  fun _ => rfl
theorem EncodesAtItsRow.symbol0 : EncodesAtItsRow.Statement (.symbol0) :=
  fun _ => rfl
theorem EncodesAtItsRow.symbolStart : EncodesAtItsRow.Statement (.symbolStart) :=
  fun _ => rfl
theorem EncodesAtItsRow.ackSlot : ∀ role, EncodesAtItsRow.Statement (.ackSlot role) :=
  fun _ _ => rfl
theorem EncodesAtItsRow.frameHeadUnicast : ∀ snd rcv ctl len, EncodesAtItsRow.Statement (.frameHeadUnicast snd rcv ctl len) :=
  fun _ _ _ _ _ => rfl
theorem EncodesAtItsRow.frameHeadBroadcast : ∀ snd rcv ctl len, EncodesAtItsRow.Statement (.frameHeadBroadcast snd rcv ctl len) :=
  fun _ _ _ _ _ => rfl
theorem EncodesAtItsRow.dataGroupUnicast : ∀ d, EncodesAtItsRow.Statement (.dataGroupUnicast d) :=
  fun _ _ => rfl
theorem EncodesAtItsRow.dataGroupBroadcast : ∀ d, EncodesAtItsRow.Statement (.dataGroupBroadcast d) :=
  fun _ _ => rfl

end Sys2Proof.Laws
end

