-- ==== Sys2Proof/Laws/Wave.lean ====
section
/-! SUPPORT. What the transmit steps put on the line, said once: a list of symbols, as the wave of `waveOf` (R80). -/

namespace Sys2Proof.Machine

/-! ## Waves -/

/-- The lines of R8 (a) to (f) as arithmetic. -/
theorem wf_timing {c : Config} (h : c.wf = true) :
    (0 < c.t1Driven ∧ c.t1Driven < c.tThreshold ∧ c.tThreshold < c.t0Driven) ∧ c.t0Driven < c.tBit ∧
      c.tBit ≤ c.tMaxBit ∧ (c.tMaxBit < c.tStartMin ∧ c.tStartMin ≤ c.tStartDriven ∧ c.tStartDriven ≤ c.tStartMax) ∧
      (1 ≤ c.tStartFloat ∧ c.tStartFloat < c.tBit) ∧ c.tStartMax + 1 < 2 ^ c.wTimer ∧
      2 * c.tMaxBit + 1 < 2 ^ c.wTimer ∧ c.rxTimeout = 2 * c.tMaxBit := by
  simp only [Config.wf, Config.wfA, Config.wfB, Config.wfC, Config.wfD, Config.wfE, Config.wfF, Config.rxTimeout,
    Bool.and_eq_true, decide_eq_true_eq] at h
  obtain ⟨⟨⟨⟨⟨⟨⟨⟨ha, hb⟩, hc⟩, hd⟩, he⟩, hf⟩, -⟩, -⟩, -⟩ := h
  have hf' := of_decide_eq_true hf
  have h1 := Nat.lt_of_le_of_lt (Nat.succ_le_succ (Nat.le_max_left c.tStartMax (2 * c.tMaxBit))) hf'
  have h2 := Nat.lt_of_le_of_lt (Nat.succ_le_succ (Nat.le_max_right c.tStartMax (2 * c.tMaxBit))) hf'
  have : Config.rxTimeout c = 2 * c.tMaxBit := rfl
  refine ⟨by omega, by omega, by omega, by omega, by omega, h1, h2, this⟩

theorem symbolDriven_le_ticks {c : Config} (h : c.wf = true) (x : Symbol) : symbolDriven c x ≤ symbolTicks c x := by
  have := wf_timing h
  cases x <;> simp only [symbolDriven, symbolTicks] <;> omega

theorem symbolDriven_pos {c : Config} (h : c.wf = true) (x : Symbol) : 0 < symbolDriven c x := by
  have := wf_timing h
  cases x <;> simp only [symbolDriven] <;> omega

@[simp] theorem envDrives_nil (u : Nat) : envDrives [] u = false := rfl

theorem envDrives_cons (a n : Nat) (w : List (Nat × Nat)) (u : Nat) :
    envDrives ((a, n) :: w) u = (decide (a ≤ u) && decide (u < a + n) || envDrives w u) := rfl

theorem envDrives_append (w v : List (Nat × Nat)) (u : Nat) :
    envDrives (w ++ v) u = (envDrives w u || envDrives v u) := by simp [envDrives]

@[simp] theorem waveTicks_nil (c : Config) : waveTicks c [] = 0 := rfl

@[simp] theorem waveTicks_cons (c : Config) (x : Symbol) (xs : List Symbol) :
    waveTicks c (x :: xs) = symbolTicks c x + waveTicks c xs := by simp [waveTicks]

theorem waveTicks_append (c : Config) (xs ys : List Symbol) :
    waveTicks c (xs ++ ys) = waveTicks c xs + waveTicks c ys := by simp [waveTicks]

theorem waveOf_append (c : Config) (t : Nat) (xs ys : List Symbol) :
    waveOf c t (xs ++ ys) = waveOf c t xs ++ waveOf c (t + waveTicks c xs) ys := by
  induction xs generalizing t with
  | nil => rfl
  | cons x xs ih => simp [waveOf, ih, Nat.add_assoc]

/-- Nothing is driven before a wave begins. -/
theorem wave_before (c : Config) (t : Nat) (xs : List Symbol) {u : Nat} (h : u < t) :
    envDrives (waveOf c t xs) u = false := by
  induction xs generalizing t with
  | nil => rfl
  | cons x xs ih =>
    rw [waveOf, envDrives_cons, ih _ (by omega)]
    simp [Nat.not_le.mpr h]

/-- Nothing is driven after a wave has ended. -/
theorem wave_after {c : Config} (hc : c.wf = true) (t : Nat) (xs : List Symbol) {u : Nat} (h : t + waveTicks c xs ≤ u) :
    envDrives (waveOf c t xs) u = false := by
  induction xs generalizing t with
  | nil => rfl
  | cons x xs ih =>
    rw [waveTicks_cons] at h
    have := symbolDriven_le_ticks hc x
    rw [waveOf, envDrives_cons, ih _ (by omega)]
    have : ¬ u < t + symbolDriven c x := by omega
    simp [this]

/-- A wave from its first symbol on: the driven phase, and then the rest. -/
theorem wave_cons (c : Config) (t : Nat) (x : Symbol) (xs : List Symbol) {u : Nat} (h : t ≤ u) :
    envDrives (waveOf c t (x :: xs)) u =
      (decide (u < t + symbolDriven c x) || envDrives (waveOf c (t + symbolTicks c x) xs) u) := by
  rw [waveOf, envDrives_cons]
  simp [h]

/-! ## Steps that put symbols on the line -/

/-- A step takes the nominal time of some symbols, and from its first tick on the core's contribution to the line is
their wave. -/
structure Emits (s t : State) (syms : List Symbol) : Prop where
  cfg : t.cfg = s.cfg
  env : t.env = s.env
  par : t.par = s.par
  time : t.now = s.now + waveTicks s.cfg syms
  before : ∀ u, u < s.now → drvAt t.drvLog u = drvAt s.drvLog u
  wave : ∀ u, s.now ≤ u → drvAt t.drvLog u = envDrives (waveOf s.cfg s.now syms) u

theorem Emits.append {s t v : State} {xs ys : List Symbol} (hc : s.cfg.wf = true) (a : Emits s t xs) (b : Emits t v ys) :
    Emits s v (xs ++ ys) where
  cfg := b.cfg.trans a.cfg
  env := b.env.trans a.env
  par := b.par.trans a.par
  time := by rw [b.time, a.time, a.cfg, waveTicks_append, Nat.add_assoc]
  before u hu := by rw [b.before u (by have := a.time; omega), a.before u hu]
  wave u hu := by
    rw [waveOf_append, envDrives_append, ← a.time]
    by_cases h : u < t.now
    · rw [b.before u h, a.wave u hu, wave_before _ _ _ h, Bool.or_false]
    · rw [b.wave u (by omega), wave_after hc _ xs (by have := a.time; omega), Bool.false_or, a.cfg]

/-- A change of registers that touches neither the line nor time does not matter. -/
theorem Emits.after {s t v : State} {xs : List Symbol} (a : Emits s t xs) (hc : v.cfg = t.cfg) (he : v.env = t.env)
    (hp : v.par = t.par) (hn : v.now = t.now) (hl : v.drvLog = t.drvLog) : Emits s v xs := by
  constructor
  · rw [hc, a.cfg]
  · rw [he, a.env]
  · rw [hp, a.par]
  · rw [hn, a.time]
  · rw [hl]; exact a.before
  · rw [hl]; exact a.wave

theorem Emits.from {s t v : State} {xs : List Symbol} (a : Emits s t xs) (hc : s.cfg = v.cfg) (he : s.env = v.env)
    (hp : s.par = v.par) (hn : s.now = v.now) (hl : s.drvLog = v.drvLog) : Emits v t xs := by
  constructor
  · rw [← hc, a.cfg]
  · rw [← he, a.env]
  · rw [← hp, a.par]
  · rw [← hn, ← hc, a.time]
  · rw [← hn, ← hl]; exact a.before
  · rw [← hn, ← hc]; exact a.wave

/-- One pulse of n driven ticks from now on, whatever the record held. -/
theorem drvAt_drive (log : List (Nat × Bool)) (now n u : Nat) (h : now ≤ u) :
    drvAt ((now + n, false) :: (now, true) :: log) u = decide (u < now + n) := by
  by_cases hu : now + n ≤ u
  · rw [drvAt_cons_le _ _ _ hu]; simp; omega
  · rw [drvAt_cons_gt _ _ _ (by omega), drvAt_cons_le _ _ _ h]; simp; omega

theorem drvAt_drive_before (log : List (Nat × Bool)) (now n u : Nat) (h : u < now) :
    drvAt ((now + n, false) :: (now, true) :: log) u = drvAt log u := by
  rw [drvAt_cons_gt _ _ _ (by omega), drvAt_cons_gt _ _ _ h]

/-- A pulse with the phases of a symbol. -/
theorem Emits.symbol (s t : State) (x : Symbol) (hc : t.cfg = s.cfg) (he : t.env = s.env) (hp : t.par = s.par)
    (hn : t.now = s.now + symbolTicks s.cfg x)
    (hl : t.drvLog = (s.now + symbolDriven s.cfg x, false) :: (s.now, true) :: s.drvLog) : Emits s t [x] where
  cfg := hc
  env := he
  par := hp
  time := by rw [hn]; simp
  before u hu := by rw [hl, drvAt_drive_before _ _ _ _ hu]
  wave u hu := by rw [hl, drvAt_drive _ _ _ _ hu, wave_cons _ _ _ _ hu]; simp [waveOf]

theorem Emits.txBit {s : State} (h : s.cfg.wf = true) (v : Bool) : Emits s (txBit v s) [Symbol.ofBit v] := by
  have := wf_timing h
  apply Emits.symbol
  · rfl
  · rfl
  · rfl
  · cases v <;> simp [Machine.txBit, txPulse, Config.driven, Symbol.ofBit, symbolTicks] <;> omega
  · cases v <;> simp [Machine.txBit, txPulse, Config.driven, Symbol.ofBit, symbolDriven]

theorem Emits.txStart (s : State) : Emits s (txStart s) [.start] := by
  apply Emits.symbol
  · rfl
  · rfl
  · rfl
  · simp [Machine.txStart, txPulse, symbolTicks, Nat.add_assoc]
  · simp [Machine.txStart, txPulse, symbolDriven]

theorem Emits.txBits {v : BitVec 12} {k : Nat} (hk : 0 < k) {s : State} (h : s.cfg.wf = true) :
    Emits s (txBits v k s) ((bitsMsb k v).map Symbol.ofBit) := by
  induction k generalizing s with
  | zero => omega
  | succ k ih =>
    have h1 : Emits s { Machine.txBit (v.getLsbD k) s with bitcnt := BitVec.ofNat 4 k } [Symbol.ofBit (v.getLsbD k)] :=
      (Emits.txBit h _).after rfl rfl rfl rfl rfl
    cases k with
    | zero => exact h1
    | succ k => exact Emits.append h h1 (ih (by omega) (by rw [h1.cfg]; exact h))

theorem parity_congr {n w w' : Nat} {v : BitVec w} {v' : BitVec w'} (h : ∀ k, k < n → v.getLsbD k = v'.getLsbD k) :
    parity n v = parity n v' := by
  induction n with
  | zero => rfl
  | succ n ih => simp only [parity]; rw [h n (by omega), ih fun k hk => h k (by omega)]

theorem bitsMsb_congr {n w w' : Nat} {v : BitVec w} {v' : BitVec w'} (h : ∀ k, k < n → v.getLsbD k = v'.getLsbD k) :
    bitsMsb n v = bitsMsb n v' := by
  induction n with
  | zero => rfl
  | succ n ih => simp only [bitsMsb]; rw [h n (by omega), ih fun k hk => h k (by omega)]

theorem lowBits_getLsbD {n : Nat} (hn : n ≤ 12) (v : BitVec 12) {k : Nat} (hk : k < n) :
    (lowBits n v).getLsbD k = v.getLsbD k := by
  have : k < 12 := by omega
  simp [lowBits, hk, this]

@[simp] theorem bitsMsb_length {w : Nat} (n : Nat) (v : BitVec w) : (bitsMsb n v).length = n := by
  induction n with
  | zero => rfl
  | succ n ih => simp [bitsMsb, ih]

theorem Emits.txField {n : Nat} (hn : 0 < n) (hn' : n ≤ 12) (v : BitVec 12) {s : State} (h : s.cfg.wf = true) :
    Emits s (txField n v s) (fieldSymbols n v) := by
  unfold Machine.txField fieldSymbols
  have h1 := (Emits.txBits (v := lowBits n v) hn
    (s := { s with shift := lowBits n v, bitcnt := BitVec.ofNat 4 n }) h).from (v := s) rfl rfl rfl rfl rfl
  rw [bitsMsb_congr fun k hk => lowBits_getLsbD hn' v hk] at h1
  exact Emits.append h h1 (Emits.txBit (by rw [h1.cfg]; exact h) _)

/-- The wave of a field takes a bit period for each bit and one for the parity bit. -/
theorem waveTicks_bits (c : Config) (bs : List Bool) : waveTicks c (bs.map Symbol.ofBit) = bs.length * c.tBit := by
  induction bs with
  | nil => simp
  | cons b bs ih =>
    rw [List.map_cons, waveTicks_cons, ih, List.length_cons, Nat.add_mul]
    cases b <;> simp [Symbol.ofBit, symbolTicks] <;> omega

theorem fieldSymbols_eq {w : Nat} (n : Nat) (v : BitVec w) :
    fieldSymbols n v = (bitsMsb n v ++ [parity n v]).map Symbol.ofBit := by simp [fieldSymbols]

@[simp] theorem waveTicks_field (c : Config) {w : Nat} (n : Nat) (v : BitVec w) :
    waveTicks c (fieldSymbols n v) = (n + 1) * c.tBit := by
  rw [fieldSymbols_eq, waveTicks_bits]
  simp

/-- What the sender does in a slot whose pulse ends d ticks after its start, `T_1_DRIVEN ≤ d < RX_TIMEOUT` (R117). -/
theorem ackRead_eq {s : State} (h : s.cfg.wf = true) {d : Nat} (hd : s.cfg.t1Driven ≤ d) (hd' : d < s.cfg.rxTimeout)
    (hdrive : DrivenFrom s.env (s.now + s.cfg.t1Driven) (s.now + d)) (hrel : envDrives s.env (s.now + d) = false) :
    ackRead s = (classifyAck s.cfg d,
      { s with drv := false, drvLog := (s.now + s.cfg.t1Driven, false) :: (s.now, true) :: s.drvLog, dur := d,
               now := s.now + max d s.cfg.tBit }) := by
  have ht := wf_timing h
  have hw : waitFor .recessive (s.cfg.rxTimeout - s.cfg.t1Driven)
      (setDrv false (waitTicks s.cfg.t1Driven (setDrv true s))) =
      (some (d - s.cfg.t1Driven), waitTicks (d - s.cfg.t1Driven)
        (setDrv false (waitTicks s.cfg.t1Driven (setDrv true s)))) := by
    apply waitFor_found
    · omega
    · simp only [State.line, lineLevel_recessive, setDrv_drv, setDrv_env, waitTicks_env, setDrv_now, waitTicks_now]
      rw [show s.now + s.cfg.t1Driven + (d - s.cfg.t1Driven) = s.now + d by omega]
      simp [hrel]
    · intro k hk
      simp only [State.line, lineLevel_recessive, setDrv_drv, setDrv_env, waitTicks_env, setDrv_now, waitTicks_now, ne_eq]
      rw [hdrive (s.now + s.cfg.t1Driven + k) (by omega) (by omega)]
      simp
  unfold Machine.ackRead
  dsimp only [setDrv_cfg, waitTicks_cfg]
  rw [hw]
  have hadd : s.cfg.t1Driven + (d - s.cfg.t1Driven) = d := by omega
  have hmod : d % 2 ^ s.cfg.wTimer = d := Nat.mod_eq_of_lt (by omega)
  dsimp only
  rw [waitTicks_cfg, setDrv_cfg, waitTicks_cfg, setDrv_cfg, hadd]
  refine Prod.ext rfl ?_
  apply State.ext <;> simp [State.durOf, hmod]
  omega

/-- What the sender does in a slot that stays driven (R117). -/
theorem ackRead_stuck {s : State} (h : s.cfg.wf = true)
    (hdrive : DrivenFrom s.env (s.now + s.cfg.t1Driven) (s.now + s.cfg.rxTimeout)) :
    ackRead s = (false,
      { s with drv := false, drvLog := (s.now + s.cfg.t1Driven, false) :: (s.now, true) :: s.drvLog,
               dur := s.cfg.rxTimeout, now := s.now + s.cfg.rxTimeout }) := by
  have ht := wf_timing h
  have hw : waitFor .recessive (s.cfg.rxTimeout - s.cfg.t1Driven)
      (setDrv false (waitTicks s.cfg.t1Driven (setDrv true s))) =
      (none, waitTicks (s.cfg.rxTimeout - s.cfg.t1Driven)
        (setDrv false (waitTicks s.cfg.t1Driven (setDrv true s)))) := by
    apply waitFor_expired
    intro k hk
    simp only [State.line, lineLevel_recessive, setDrv_drv, setDrv_env, waitTicks_env, setDrv_now, waitTicks_now, ne_eq]
    rw [hdrive (s.now + s.cfg.t1Driven + k) (by omega) (by omega)]
    simp
  unfold Machine.ackRead
  dsimp only [setDrv_cfg, waitTicks_cfg]
  rw [hw]
  have hadd : s.cfg.t1Driven + (s.cfg.rxTimeout - s.cfg.t1Driven) = s.cfg.rxTimeout := by omega
  have hmod : s.cfg.rxTimeout % 2 ^ s.cfg.wTimer = s.cfg.rxTimeout := Nat.mod_eq_of_lt (by omega)
  dsimp only
  refine Prod.ext rfl ?_
  apply State.ext <;> simp [State.durOf, hadd, hmod]
  omega

/-! ## Symbols with delays after them (R117) -/

/-- The ticks that symbols and the delays after them take. -/
def heldTicks (c : Config) (xs : List (Symbol × Nat)) : Nat := (xs.map (fun p => symbolTicks c p.1 + p.2)).sum

@[simp] theorem heldTicks_nil (c : Config) : heldTicks c [] = 0 := rfl

@[simp] theorem heldTicks_cons (c : Config) (x : Symbol) (o : Nat) (xs : List (Symbol × Nat)) :
    heldTicks c ((x, o) :: xs) = symbolTicks c x + o + heldTicks c xs := by simp [heldTicks]

theorem heldTicks_append (c : Config) (xs ys : List (Symbol × Nat)) :
    heldTicks c (xs ++ ys) = heldTicks c xs + heldTicks c ys := by simp [heldTicks]

theorem heldWave_append (c : Config) (t : Nat) (xs ys : List (Symbol × Nat)) :
    heldWave c t (xs ++ ys) = heldWave c t xs ++ heldWave c (t + heldTicks c xs) ys := by
  induction xs generalizing t with
  | nil => rfl
  | cons p xs ih => obtain ⟨x, o⟩ := p; simp [heldWave, ih, Nat.add_assoc]

/-- Nothing is driven before the first symbol. -/
theorem heldWave_before (c : Config) (t : Nat) (xs : List (Symbol × Nat)) {u : Nat} (h : u < t) :
    envDrives (heldWave c t xs) u = false := by
  induction xs generalizing t with
  | nil => rfl
  | cons p xs ih =>
    obtain ⟨x, o⟩ := p
    rw [heldWave, envDrives_cons, ih _ (by omega)]
    simp [Nat.not_le.mpr h]

/-- Nothing is driven after the last symbol. -/
theorem heldWave_after {c : Config} (hc : c.wf = true) (t : Nat) (xs : List (Symbol × Nat)) {u : Nat}
    (h : t + heldTicks c xs ≤ u) : envDrives (heldWave c t xs) u = false := by
  induction xs generalizing t with
  | nil => rfl
  | cons p xs ih =>
    obtain ⟨x, o⟩ := p
    rw [heldTicks_cons] at h
    have := symbolDriven_le_ticks hc x
    rw [heldWave, envDrives_cons, ih _ (by omega)]
    have : ¬ u < t + symbolDriven c x := by omega
    simp [this]

/-- Symbols without delays are the plain wave. -/
theorem heldWave_plain (c : Config) (t : Nat) (syms : List Symbol) :
    heldWave c t (syms.map (fun x => (x, 0))) = waveOf c t syms := by
  induction syms generalizing t with
  | nil => rfl
  | cons x xs ih => simp [heldWave, waveOf, ih]

theorem heldTicks_plain (c : Config) (syms : List Symbol) :
    heldTicks c (syms.map (fun x => (x, 0))) = waveTicks c syms := by
  induction syms with
  | nil => rfl
  | cons x xs ih => simp [ih]

/-- Symbols numbered from k on are without delays where `late` is 0. -/
theorem heldFrom_plain (late : Nat → Nat) (syms : List Symbol) (k : Nat)
    (h : ∀ j, k ≤ j → j < k + syms.length → late j = 0) :
    (syms.zipIdx k).map (fun p => (p.1, late p.2)) = syms.map (fun x => (x, 0)) := by
  induction syms generalizing k with
  | nil => rfl
  | cons x xs ih =>
    rw [List.zipIdx_cons, List.map_cons, List.map_cons, h k (by omega) (by simp)]
    rw [ih (k + 1) fun j hj hj' => h j (by omega) (by simp only [List.length_cons]; omega)]

/-- What follows symbols without delays. -/
theorem held_append_plain (late : Nat → Nat) (xs ys : List Symbol)
    (h : ∀ j, xs.length ≤ j → j < xs.length + ys.length → late j = 0) :
    held late (xs ++ ys) = held late xs ++ ys.map (fun x => (x, 0)) := by
  rw [held, List.zipIdx_append, List.map_append, ← heldFrom_plain late ys xs.length h]
  simp [held]

theorem held_append_one (late : Nat → Nat) (xs : List Symbol) (x : Symbol) :
    held late (xs ++ [x]) = held late xs ++ [(x, late xs.length)] := by simp [held, List.zipIdx_append]

/-- Delays are added to the nominal time. -/
theorem heldTicks_held (c : Config) (late : Nat → Nat) (syms : List Symbol) :
    heldTicks c (held late syms) = waveTicks c syms + ((List.range syms.length).map late).sum := by
  induction syms using List.reverseRecOn with
  | nil => rfl
  | append_singleton xs x ih =>
    rw [held_append_one, heldTicks_append, ih, waveTicks_append, List.length_append]
    simp [List.range_succ]
    omega

/-- The time of the symbol that follows some symbols of nominal length. -/
theorem heldTime_eq (c : Config) (late : Nat → Nat) (t0 : Nat) (syms : List Symbol)
    (h : waveTicks c syms = c.tStartDriven + c.tStartFloat + (syms.length - 1) * c.tBit) :
    heldTime c late t0 syms.length = t0 + heldTicks c (held late syms) := by
  rw [heldTicks_held, h]
  simp only [heldTime, symbolTime]
  omega

/-- As `Emits`, for symbols with delays after them. -/
structure EmitsHeld (s t : State) (xs : List (Symbol × Nat)) : Prop where
  cfg : t.cfg = s.cfg
  env : t.env = s.env
  par : t.par = s.par
  time : t.now = s.now + heldTicks s.cfg xs
  before : ∀ u, u < s.now → drvAt t.drvLog u = drvAt s.drvLog u
  wave : ∀ u, s.now ≤ u → drvAt t.drvLog u = envDrives (heldWave s.cfg s.now xs) u

theorem Emits.held {s t : State} {syms : List Symbol} (a : Emits s t syms) :
    EmitsHeld s t (syms.map (fun x => (x, 0))) where
  cfg := a.cfg
  env := a.env
  par := a.par
  time := by rw [heldTicks_plain, a.time]
  before := a.before
  wave := by rw [heldWave_plain]; exact a.wave

theorem EmitsHeld.append {s t v : State} {xs ys : List (Symbol × Nat)} (hc : s.cfg.wf = true) (a : EmitsHeld s t xs)
    (b : EmitsHeld t v ys) : EmitsHeld s v (xs ++ ys) where
  cfg := b.cfg.trans a.cfg
  env := b.env.trans a.env
  par := b.par.trans a.par
  time := by rw [b.time, a.time, a.cfg, heldTicks_append, Nat.add_assoc]
  before u hu := by rw [b.before u (by have := a.time; omega), a.before u hu]
  wave u hu := by
    rw [heldWave_append, envDrives_append, ← a.time]
    by_cases h : u < t.now
    · rw [b.before u h, a.wave u hu, heldWave_before _ _ _ h, Bool.or_false]
    · rw [b.wave u (by omega), heldWave_after hc _ xs (by have := a.time; omega), Bool.false_or, a.cfg]

/-- A change of registers that touches neither the line nor time does not matter. -/
theorem EmitsHeld.after {s t v : State} {xs : List (Symbol × Nat)} (a : EmitsHeld s t xs) (hc : v.cfg = t.cfg)
    (he : v.env = t.env) (hp : v.par = t.par) (hn : v.now = t.now) (hl : v.drvLog = t.drvLog) : EmitsHeld s v xs := by
  constructor
  · rw [hc, a.cfg]
  · rw [he, a.env]
  · rw [hp, a.par]
  · rw [hn, a.time]
  · rw [hl]; exact a.before
  · rw [hl]; exact a.wave

/-- The pulse of a slot, and the delay of a slot that is held for d ticks. -/
theorem EmitsHeld.slot (s t : State) (d : Nat) (hc : t.cfg = s.cfg) (he : t.env = s.env) (hp : t.par = s.par)
    (hn : t.now = s.now + max d s.cfg.tBit)
    (hl : t.drvLog = (s.now + s.cfg.t1Driven, false) :: (s.now, true) :: s.drvLog) :
    EmitsHeld s t [(.one, d - s.cfg.tBit)] where
  cfg := hc
  env := he
  par := hp
  time := by rw [hn]; simp [symbolTicks]; omega
  before u hu := by rw [hl, drvAt_drive_before _ _ _ _ hu]
  wave u hu := by
    rw [hl, drvAt_drive _ _ _ _ hu]
    simp [heldWave, envDrives_cons, symbolDriven, hu]

end Sys2Proof.Machine
end

