-- ==== Sys2Proof/Laws/Receive.lean ====
section
/-! SUPPORT. Where the pulses of `pulseWave` drive the line, and what a wait and a receive step make of the line that
follows, said once for each way they can end (R12, R113, R116, R118, R120). -/

namespace Sys2Proof.Machine

/-! ## Pulses -/

@[simp] theorem pulseWave_nil (t : Nat) : pulseWave t [] = [] := rfl

/-- Nothing is driven before the first pulse. -/
theorem pulseWave_before (t : Nat) (ps : List (Nat × Nat)) {u : Nat} (h : u < t) :
    envDrives (pulseWave t ps) u = false := by
  induction ps generalizing t with
  | nil => rfl
  | cons p ps ih =>
    obtain ⟨d, n⟩ := p
    rw [pulseWave, envDrives_cons, ih _ (by omega)]
    simp [Nat.not_le.mpr h]

/-- The driven phase of the first pulse. -/
theorem pulseWave_driven (t d n : Nat) (ps : List (Nat × Nat)) {u : Nat} (h : t ≤ u) (h' : u < t + d) :
    envDrives (pulseWave t ((d, n) :: ps)) u = true := by
  rw [pulseWave, envDrives_cons]
  simp [h, h']

/-- After its driven phase the first pulse does not matter. -/
theorem pulseWave_rest (t d n : Nat) (ps : List (Nat × Nat)) {u : Nat} (h : t + d ≤ u) :
    envDrives (pulseWave t ((d, n) :: ps)) u = envDrives (pulseWave (t + n) ps) u := by
  rw [pulseWave, envDrives_cons]
  simp [Nat.not_lt.mpr h]

/-- Pulses with the nominal phases of symbols are their wave. -/
theorem pulseWave_nominal (c : Config) (t : Nat) (syms : List Symbol) :
    pulseWave t (syms.map (fun x => (symbolDriven c x, symbolTicks c x))) = waveOf c t syms := by
  induction syms generalizing t with
  | nil => rfl
  | cons x xs ih => simp [pulseWave, waveOf, ih]

theorem pulseStart_succ (t d n k : Nat) (ps : List (Nat × Nat)) :
    pulseStart t ((d, n) :: ps) (k + 1) = pulseStart (t + n) ps k := by simp [pulseStart, Nat.add_assoc]

@[simp] theorem pulseStart_zero (t : Nat) (ps : List (Nat × Nat)) : pulseStart t ps 0 = t := by simp [pulseStart]

/-- From the first tick of a pulse to the first tick of the next one, the line is driven for the pulse's driven phase. -/
theorem pulseWave_within {t k u : Nat} {p : Nat × Nat} {ps : List (Nat × Nat)} (h : ∀ q ∈ ps, q.1 ≤ q.2)
    (hk : ps[k]? = some p) (h1 : pulseStart t ps k ≤ u) (h2 : u < pulseStart t ps k + p.2) :
    envDrives (pulseWave t ps) u = decide (u < pulseStart t ps k + p.1) := by
  induction k generalizing t ps with
  | zero =>
    cases ps with
    | nil => simp at hk
    | cons q ps =>
      obtain rfl : q = p := by simpa using hk
      simp only [pulseStart_zero] at h1 h2 ⊢
      by_cases hu : u < t + q.1
      · rw [pulseWave_driven _ _ _ _ h1 hu, decide_eq_true hu]
      · rw [pulseWave_rest _ _ _ _ (by omega), pulseWave_before _ _ h2, decide_eq_false hu]
  | succ k ih =>
    cases ps with
    | nil => simp at hk
    | cons q ps =>
      rw [pulseStart_succ] at h1 h2 ⊢
      have hq := h q List.mem_cons_self
      have hs : t + q.2 ≤ pulseStart (t + q.2) ps k := by rw [pulseStart]; omega
      rw [pulseWave_rest _ _ _ _ (by omega)]
      exact ih (fun x hx => h x (List.mem_cons_of_mem _ hx)) (by simpa using hk) h1 h2

/-- A frame sent whole has the symbols of the frame (R82, R83). -/
theorem Frame.sent_symbols (f : Frame) (c : Config) : f.sent.symbols c = frameSymbols c f := rfl

/-! ## Waits of a block that does not drive -/

/-- The wait for a pulse that begins after g ticks. -/
theorem waitFor_edge {s : State} {g limit : Nat} (hd : s.drv = false) (hg : g < limit)
    (hq : QuietFrom s.env s.now (s.now + g)) (he : envDrives s.env (s.now + g) = true) :
    waitFor .dominant limit s = (some g, waitTicks g s) := by
  refine waitFor_found hg ?_ fun k hk => ?_
  · rw [line_def, lineLevel_dominant, he]
    simp
  · rw [line_def, ne_eq, lineLevel_dominant, hq _ (by omega) (by omega), hd]
    simp

/-- The wait for a pulse that does not come. -/
theorem waitFor_silent {s : State} {limit : Nat} (hd : s.drv = false) (hq : QuietFrom s.env s.now (s.now + limit)) :
    waitFor .dominant limit s = (none, waitTicks limit s) :=
  waitFor_expired fun k hk => by rw [line_def, ne_eq, lineLevel_dominant, hq _ (by omega) (by omega), hd]; simp

/-- The wait for the end of a pulse that is held for d more ticks. -/
theorem waitFor_release {s : State} {d limit : Nat} (hd : s.drv = false) (hl : d < limit)
    (hr : DrivenFrom s.env s.now (s.now + d)) (he : envDrives s.env (s.now + d) = false) :
    waitFor .recessive limit s = (some d, waitTicks d s) := by
  refine waitFor_found hl ?_ fun k hk => ?_
  · rw [line_def, lineLevel_recessive, hd, he]
    exact ⟨rfl, rfl⟩
  · rw [line_def, ne_eq, lineLevel_recessive, hr _ (by omega) (by omega)]
    simp

/-- The wait for the end of a pulse that is not released. -/
theorem waitFor_stuck {s : State} {limit : Nat} (hr : DrivenFrom s.env s.now (s.now + limit)) :
    waitFor .recessive limit s = (none, waitTicks limit s) :=
  waitFor_expired fun k hk => by rw [line_def, ne_eq, lineLevel_recessive, hr _ (by omega) (by omega)]; simp

/-! ## Receive steps -/

/-- A pulse that a bit can have is read as the bit of its class (R113, R120). -/
theorem rxBit_pulse {s : State} {g d : Nat} (h : s.cfg.wf = true) (hd : s.drv = false) (hg : g < s.cfg.rxTimeout)
    (h1 : 1 ≤ d) (h2 : d ≤ s.cfg.tMaxBit) (hp : PulseAt s.env s.now g d) :
    rxBit s = .ok (decide (d < s.cfg.tThreshold))
      { s with now := s.now + g + d, dur := d, par := accumulate s.par (decide (d < s.cfg.tThreshold)) } := by
  have ht := wf_timing h
  have hc : classifyData s.cfg d = some (decide (d < s.cfg.tThreshold)) := by rw [classifyData, if_neg (by omega)]
  have hm : d % 2 ^ s.cfg.wTimer = d := Nat.mod_eq_of_lt (by omega)
  have hw := waitFor_release (s := waitTicks g s) (limit := s.cfg.rxTimeout) hd (by omega) hp.2.1 hp.2.2
  rw [rxBit, waitFor_edge hd hg hp.1 (hp.2.1 _ (Nat.le_refl _) (by omega))]
  dsimp only [waitTicks_cfg]
  rw [hw]
  dsimp only [waitTicks_cfg]
  rw [hc]
  dsimp only
  refine congrArg _ ?_
  apply State.ext <;> simp [State.durOf, hm]

/-- With no pulse to come, a bit ends in DESYNC (R113). -/
theorem rxBit_silent {s : State} (hd : s.drv = false) (hq : QuietFrom s.env s.now (s.now + s.cfg.rxTimeout)) :
    rxBit s = .err (raised .desync) { s with now := s.now + s.cfg.rxTimeout } := by
  rw [rxBit, waitFor_silent hd hq]
  rfl

/-- A pulse that is too long for a bit, or is not released, ends in DESYNC (R113). -/
theorem rxBit_tooLong {s : State} {g d : Nat} (h : s.cfg.wf = true) (hd : s.drv = false) (hg : g < s.cfg.rxTimeout)
    (h1 : s.cfg.tMaxBit < d) (h2 : d ≤ s.cfg.rxTimeout) (hq : QuietFrom s.env s.now (s.now + g))
    (hr : DrivenFrom s.env (s.now + g) (s.now + g + d))
    (he : d < s.cfg.rxTimeout → envDrives s.env (s.now + g + d) = false) :
    rxBit s = .err (raised .desync) { s with now := s.now + g + d, dur := d } := by
  have ht := wf_timing h
  have hm : d % 2 ^ s.cfg.wTimer = d := Nat.mod_eq_of_lt (by omega)
  rw [rxBit, waitFor_edge hd hg hq (hr _ (Nat.le_refl _) (by omega))]
  dsimp only [waitTicks_cfg]
  rcases Nat.lt_or_ge d s.cfg.rxTimeout with hl | hl
  · have hw := waitFor_release (s := waitTicks g s) (limit := s.cfg.rxTimeout) hd hl hr (he hl)
    have hc : classifyData s.cfg d = none := by rw [classifyData, if_pos (by omega)]
    rw [hw]
    dsimp only [waitTicks_cfg]
    rw [hc]
    dsimp only
    refine congrArg _ ?_
    apply State.ext <;> simp [State.durOf, hm]
  · obtain rfl : d = s.cfg.rxTimeout := by omega
    have hw := waitFor_stuck (s := waitTicks g s) hr
    rw [hw]
    dsimp only
    refine congrArg _ ?_
    apply State.ext <;> simp [State.durOf, hm]

/-- A pulse within the tolerance is a start bit (R116). -/
theorem rxStart_pulse {s : State} {g d : Nat} (h : s.cfg.wf = true) (hd : s.drv = false) (hg : g < s.cfg.rxTimeout)
    (h1 : s.cfg.tStartMin ≤ d) (h2 : d ≤ s.cfg.tStartMax) (hp : PulseAt s.env s.now g d) :
    rxStart s = .ok () { s with now := s.now + g + d, dur := d } := by
  have ht := wf_timing h
  have hc : classifyStart s.cfg d = .accepted := by rw [classifyStart, if_neg (by omega), if_neg (by omega)]
  have hm : d % 2 ^ s.cfg.wTimer = d := Nat.mod_eq_of_lt (by omega)
  have hw := waitFor_release (s := waitTicks g s) (limit := s.cfg.tStartMax + 1) hd (by omega) hp.2.1 hp.2.2
  rw [rxStart, waitFor_edge hd hg hp.1 (hp.2.1 _ (Nat.le_refl _) (by omega))]
  dsimp only [waitTicks_cfg]
  rw [hw]
  dsimp only [waitTicks_cfg]
  rw [hc]
  dsimp only
  refine congrArg _ ?_
  apply State.ext <;> simp [State.durOf, hm]

/-- A slot for this device is answered from the sender's edge on, and is over when the others have released the line e
ticks after the core (R118). -/
theorem ackSend_held {s : State} {g e n : Nat} (hd : s.drv = false) (hg : g < s.cfg.rxTimeout)
    (hn : n = s.now + g + s.cfg.t0Driven) (hl : e < s.cfg.rxTimeout) (hq : QuietFrom s.env s.now (s.now + g))
    (he : envDrives s.env (s.now + g) = true) (hr : DrivenFrom s.env n (n + e)) (hf : envDrives s.env (n + e) = false) :
    ackSend s = .ok () { s with now := n + e, drv := false, drvLog := (n, false) :: (s.now + g, true) :: s.drvLog } := by
  have hw := waitFor_release (s := setDrv false (waitTicks s.cfg.t0Driven (setDrv true (waitTicks g s))))
    (limit := s.cfg.rxTimeout) (by simp) hl (by simpa [← hn] using hr) (by simpa [← hn] using hf)
  rw [ackSend, waitFor_edge hd hg hq he]
  dsimp only [waitTicks_cfg]
  rw [hw]
  dsimp only
  refine congrArg _ ?_
  apply State.ext <;> simp [← hn]

/-- A slot in which no pulse begins ends in DESYNC, and the core has not driven (R118). -/
theorem ackSend_silent {s : State} (hd : s.drv = false) (hq : QuietFrom s.env s.now (s.now + s.cfg.rxTimeout)) :
    ackSend s = .err (raised .desync) { s with now := s.now + s.cfg.rxTimeout } := by
  rw [ackSend, waitFor_silent hd hq]
  rfl

/-- A slot that the others do not release ends in DESYNC (R118). -/
theorem ackSend_stuck {s : State} {g n : Nat} (hd : s.drv = false) (hg : g < s.cfg.rxTimeout)
    (hn : n = s.now + g + s.cfg.t0Driven) (hq : QuietFrom s.env s.now (s.now + g))
    (he : envDrives s.env (s.now + g) = true) (hr : DrivenFrom s.env n (n + s.cfg.rxTimeout)) :
    ackSend s = .err (raised .desync)
      { s with now := n + s.cfg.rxTimeout, drv := false,
               drvLog := (n, false) :: (s.now + g, true) :: s.drvLog } := by
  have hw := waitFor_stuck (s := setDrv false (waitTicks s.cfg.t0Driven (setDrv true (waitTicks g s))))
    (limit := s.cfg.rxTimeout) (by simpa [← hn] using hr)
  rw [ackSend, waitFor_edge hd hg hq he]
  dsimp only [waitTicks_cfg]
  rw [hw]
  dsimp only
  refine congrArg _ ?_
  apply State.ext <;> simp [← hn]

end Sys2Proof.Machine
end

