-- ==== Sys2Proof/Laws/Send.lean ====
section
/-! SUPPORT. What the steps of SEND_FRAME put on the line, group by group: with every ack slot stretched the whole
frame; and slot by slot where slots are held beyond the bit period or not acknowledged (R146, R147). -/

namespace Sys2Proof.Machine

@[simp] theorem Res.andThen_ok {α β : Type} (a : α) (s : State) (k : α → State → Res β) :
    (Res.ok a s).andThen k = k a s := rfl

@[simp] theorem Res.andThen_err {α β : Type} (e : ResultReg) (s : State) (k : α → State → Res β) :
    (Res.err e s).andThen k = .err e s := rfl

theorem Emits.sendAt {s t : State} {xs : List Symbol} (p : FieldPos) (a : Emits (sendAt p s) t xs) : Emits s t xs :=
  a.from rfl rfl rfl rfl rfl

/-- The slot that begins at tick t is stretched past the threshold by some other agent, and ends within the bit
period (R85, R117). -/
def Stretched (c : Config) (env : List (Nat × Nat)) (t : Nat) : Prop :=
  ∃ d, c.tThreshold ≤ d ∧ d ≤ c.tBit ∧ DrivenFrom env (t + c.t1Driven) (t + d) ∧ envDrives env (t + d) = false

/-- An ack slot that is stretched past the threshold (R147). -/
theorem txAck_stretched {s : State} (h : s.cfg.wf = true) (f : FieldPos) (i : BitVec 6)
    (hs : Stretched s.cfg s.env s.now) : ∃ t, txAck true f i s = .ok () t ∧ Emits s t [.one] := by
  have ht := wf_timing h
  obtain ⟨d, hd, hd', hdrive, hrel⟩ := hs
  have he := ackRead_eq (s := sendAt f s) h (d := d) (by simp; omega) (by simp; omega) hdrive hrel
  refine ⟨(ackRead (sendAt f s)).2, ?_, ?_⟩
  · have hc : classifyAck s.cfg d = true := by simp [classifyAck]; omega
    simp only [txAck, if_true]
    rw [he]
    simp [hc]
  · rw [he]
    apply Emits.symbol <;> simp [symbolTicks, symbolDriven]
    omega

/-- An ack slot that is acknowledged after d ticks (R147). -/
theorem txAck_acked {s : State} (h : s.cfg.wf = true) (f : FieldPos) (i : BitVec 6) {d : Nat}
    (hs : AckedFor s.cfg s.env s.now d) :
    ∃ t, txAck true f i s = .ok () t ∧ EmitsHeld s t [(.one, d - s.cfg.tBit)] := by
  have ht := wf_timing h
  obtain ⟨hd, hd', hdrive, hrel⟩ := hs
  have he := ackRead_eq (s := sendAt f s) h (d := d) (by simp; omega) (by simp; omega) hdrive hrel
  refine ⟨(ackRead (sendAt f s)).2, ?_, ?_⟩
  · have hc : classifyAck s.cfg d = true := by simp [classifyAck]; omega
    simp only [txAck, if_true]
    rw [he]
    simp [hc]
  · rw [he]
    apply EmitsHeld.slot <;> simp

/-- An ack slot that is not acknowledged: left short, held too long, or never released (R147). -/
theorem txAck_unacked {s : State} (h : s.cfg.wf = true) (f : FieldPos) (i : BitVec 6) {d : Nat}
    (hs : UnackedFor s.cfg s.env s.now d) :
    ∃ t, txAck true f i s = .err { code := .nak, field := f, index := i } t ∧
      EmitsHeld s t [(.one, d - s.cfg.tBit)] := by
  have ht := wf_timing h
  obtain ⟨hd, hd', hdrive, hend⟩ := hs
  refine ⟨(ackRead (sendAt f s)).2, ?_, ?_⟩
  · simp only [txAck, if_true]
    rcases hend with ⟨hlt, hrel⟩ | rfl
    · have hc : classifyAck s.cfg d = false := by simp [classifyAck]; omega
      rw [ackRead_eq (s := sendAt f s) h (d := d) hd hlt hdrive hrel]
      simp [hc]
    · rw [ackRead_stuck (s := sendAt f s) h hdrive]
      rfl
  · rcases hend with ⟨hlt, hrel⟩ | rfl
    · rw [ackRead_eq (s := sendAt f s) h (d := d) hd hlt hdrive hrel]
      apply EmitsHeld.slot <;> simp
    · rw [ackRead_stuck (s := sendAt f s) h hdrive]
      apply EmitsHeld.slot <;> simp
      omega

/-- A field with its ack slot, stretched in a unicast frame. -/
theorem group_sent {s : State} (h : s.cfg.wf = true) {n : Nat} (hn : 0 < n) (hn' : n ≤ 12) (v : BitVec 12)
    (p f : FieldPos) (i : BitVec 6) (u : Bool)
    (hs : u = true → Stretched s.cfg s.env (s.now + (n + 1) * s.cfg.tBit)) :
    ∃ t, txAck u f i (txField n v (sendAt p s)) = .ok () t ∧ Emits s t (fieldSymbols n v ++ slotSymbols u) := by
  have h1 : Emits s (txField n v (sendAt p s)) (fieldSymbols n v) :=
    (Emits.txField hn hn' v (s := sendAt p s) h).sendAt p
  cases u with
  | false => exact ⟨_, rfl, by simpa [slotSymbols] using h1⟩
  | true =>
    obtain ⟨t, ht, he⟩ := txAck_stretched (s := txField n v (sendAt p s)) (by rw [h1.cfg]; exact h) f i (by
      rw [h1.cfg, h1.env, h1.time, waveTicks_field]; exact hs rfl)
    exact ⟨t, ht, Emits.append h h1 he⟩

/-- The bits of a field are those of its value in any width. -/
theorem fieldSymbols_setWidth {w : Nat} (n : Nat) (v : BitVec w) (w' : Nat) (h : n ≤ w') :
    fieldSymbols n (v.setWidth w') = fieldSymbols n v := by
  have hb : ∀ k, k < n → (v.setWidth w').getLsbD k = v.getLsbD k := by
    intro k hk
    have : k < w' := by omega
    simp [this]
  rw [fieldSymbols_eq, fieldSymbols_eq, parity_congr hb, bitsMsb_congr hb]

/-- The start bit, the mode bit and the two addresses. -/
theorem addresses_sent {s : State} (h : s.cfg.wf = true) (u : Bool) (snd rcv : Addr) :
    Emits s (txField 12 rcv (sendAt .receiver (txField 12 snd (sendAt .sender (txBit
        ((txStart (sendAt .start s)).cfg.modeBit u) (sendAt .mode (txStart (sendAt .start s))))))))
      ([.start, Symbol.ofBit (s.cfg.modeBit u)] ++ fieldSymbols 12 snd ++ fieldSymbols 12 rcv) := by
  have h0 : Emits s (txStart (sendAt .start s)) [.start] := (Emits.txStart _).sendAt _
  generalize txStart (sendAt .start s) = a at h0 ⊢
  have h1 : Emits a (txBit (a.cfg.modeBit u) (sendAt .mode a)) [Symbol.ofBit (a.cfg.modeBit u)] :=
    (Emits.txBit (s := sendAt .mode a) (by rw [sendAt_cfg, h0.cfg]; exact h) _).sendAt _
  generalize txBit (a.cfg.modeBit u) (sendAt .mode a) = b at h1 ⊢
  rw [h0.cfg] at h1
  have h2 := Emits.append h h0 h1
  have h3 : Emits b (txField 12 snd (sendAt .sender b)) (fieldSymbols 12 snd) :=
    (Emits.txField (by omega) (by omega) snd (by rw [sendAt_cfg, h2.cfg]; exact h)).sendAt _
  generalize txField 12 snd (sendAt .sender b) = c at h3 ⊢
  have h4 := Emits.append h h2 h3
  have h5 : Emits c (txField 12 rcv (sendAt .receiver c)) (fieldSymbols 12 rcv) :=
    (Emits.txField (by omega) (by omega) rcv (by rw [sendAt_cfg, h4.cfg]; exact h)).sendAt _
  exact Emits.append h h4 h5

theorem head_ticks (c : Config) (b : Bool) (snd rcv : Addr) :
    waveTicks c ([.start, Symbol.ofBit b] ++ fieldSymbols 12 snd ++ fieldSymbols 12 rcv) =
      c.tStartDriven + c.tStartFloat + 27 * c.tBit := by
  simp only [waveTicks_append, waveTicks_field, waveTicks_cons, waveTicks_nil]
  cases b <;> simp only [symbolTicks, Symbol.ofBit] <;> simp <;> omega

/-! ## Whole heads and payloads -/

/-- The next slot after what has been sent. -/
theorem slot_next {s0 s : State} {xs : List Symbol} (h : s0.cfg.wf = true) (e : Emits s0 s xs) (f : FieldPos) (i : BitVec 6)
    (u : Bool) (hs : u = true → Stretched s0.cfg s0.env (s0.now + waveTicks s0.cfg xs)) :
    ∃ t, txAck u f i s = .ok () t ∧ Emits s0 t (xs ++ slotSymbols u) := by
  cases u with
  | false => exact ⟨s, rfl, by simpa [slotSymbols] using e⟩
  | true =>
    obtain ⟨t, ht, he⟩ := txAck_stretched (s := s) (by rw [e.cfg]; exact h) f i (by
      rw [e.cfg, e.env, e.time]; exact hs rfl)
    exact ⟨t, ht, Emits.append h e he⟩

/-- The next slot after what has been sent, acknowledged. -/
theorem slot_next_held {s0 s : State} {late : Nat → Nat} {xs : List Symbol} (h : s0.cfg.wf = true)
    (e : EmitsHeld s0 s (held late xs)) (f : FieldPos) (i : BitVec 6) {d : Nat}
    (hs : AckedFor s0.cfg s0.env (s0.now + heldTicks s0.cfg (held late xs)) d) (ho : late xs.length = d - s0.cfg.tBit) :
    ∃ t, txAck true f i s = .ok () t ∧ EmitsHeld s0 t (held late (xs ++ [.one])) := by
  obtain ⟨t, ht, he⟩ := txAck_acked (s := s) (by rw [e.cfg]; exact h) f i (d := d) (by
    rw [e.cfg, e.env, e.time]; exact hs)
  refine ⟨t, ht, ?_⟩
  rw [held_append_one, ho, ← e.cfg]
  exact EmitsHeld.append h e he

/-- The next slot after what has been sent, not acknowledged. -/
theorem slot_next_unacked {s0 s : State} {late : Nat → Nat} {xs : List Symbol} (h : s0.cfg.wf = true)
    (e : EmitsHeld s0 s (held late xs)) (f : FieldPos) (i : BitVec 6) {d : Nat}
    (hs : UnackedFor s0.cfg s0.env (s0.now + heldTicks s0.cfg (held late xs)) d) :
    ∃ t, txAck true f i s = .err { code := .nak, field := f, index := i } t ∧
      EmitsHeld s0 t (held late xs ++ [(.one, d - s0.cfg.tBit)]) := by
  obtain ⟨t, ht, he⟩ := txAck_unacked (s := s) (by rw [e.cfg]; exact h) f i (d := d) (by
    rw [e.cfg, e.env, e.time]; exact hs)
  refine ⟨t, ht, ?_⟩
  rw [← e.cfg]
  exact EmitsHeld.append h e he

/-- The next field after what has been sent, where `late` says that its bits are not held up. -/
theorem field_next_held {s0 s : State} {late : Nat → Nat} {xs : List Symbol} (h : s0.cfg.wf = true)
    (e : EmitsHeld s0 s (held late xs)) {n : Nat} (hn : 0 < n) (hn' : n ≤ 12) (v : BitVec 12) (p : FieldPos)
    (ho : ∀ j, xs.length ≤ j → j < xs.length + (n + 1) → late j = 0) :
    EmitsHeld s0 (txField n v (sendAt p s)) (held late (xs ++ fieldSymbols n v)) := by
  rw [held_append_plain late xs _ (by simpa [fieldSymbols_eq] using ho)]
  exact EmitsHeld.append h e ((Emits.txField hn hn' v (by rw [sendAt_cfg, e.cfg]; exact h)).sendAt p).held

/-- The next field after what has been sent. -/
theorem field_next {s0 s : State} {xs : List Symbol} (h : s0.cfg.wf = true) (e : Emits s0 s xs) {n : Nat} (hn : 0 < n)
    (hn' : n ≤ 12) (v : BitVec 12) (p : FieldPos) : Emits s0 (txField n v (sendAt p s)) (xs ++ fieldSymbols n v) :=
  Emits.append h e ((Emits.txField hn hn' v (by rw [sendAt_cfg, e.cfg]; exact h)).sendAt p)

theorem head_ticks_control (c : Config) (b u : Bool) (snd rcv : Addr) (ctl : BitVec 12) (hu : u = true) :
    waveTicks c ([.start, Symbol.ofBit b] ++ fieldSymbols 12 snd ++ fieldSymbols 12 rcv ++ slotSymbols u ++
      fieldSymbols 4 ctl) = c.tStartDriven + c.tStartFloat + 33 * c.tBit := by
  rw [waveTicks_append, waveTicks_append, head_ticks, waveTicks_field]
  simp only [hu, slotSymbols, if_true, waveTicks_cons, waveTicks_nil, symbolTicks]
  omega

theorem head_ticks_length (c : Config) (b u : Bool) (snd rcv : Addr) (ctl : BitVec 12) (len : BitVec 12)
    (hu : u = true) :
    waveTicks c ([.start, Symbol.ofBit b] ++ fieldSymbols 12 snd ++ fieldSymbols 12 rcv ++ slotSymbols u ++
      fieldSymbols 4 ctl ++ slotSymbols u ++ fieldSymbols 8 len) = c.tStartDriven + c.tStartFloat + 43 * c.tBit := by
  rw [waveTicks_append, waveTicks_append, head_ticks_control _ _ _ _ _ _ hu, waveTicks_field]
  simp only [hu, slotSymbols, if_true, waveTicks_cons, waveTicks_nil, symbolTicks]
  omega

/-- A head whose slots are all stretched (R146). -/
theorem txHead_sent {s : State} (h : s.cfg.wf = true) (u : Bool) (snd rcv : Addr) (ctl : BitVec 4) (len : BitVec 8)
    (hs : u = true → ∀ k ∈ [27, 33, 43],
      Stretched s.cfg s.env (s.now + (s.cfg.tStartDriven + s.cfg.tStartFloat + k * s.cfg.tBit))) :
    ∃ t, txHead u snd rcv ctl len s = .ok () t ∧ Emits s t (headSymbols s.cfg u snd rcv ctl len) := by
  have e0 := addresses_sent h u snd rcv
  obtain ⟨a, ha, e1⟩ := slot_next h e0 .addrAck 0#6 u (by
    intro hu; rw [head_ticks]; exact hs hu 27 (by simp))
  have e2 := field_next h e1 (n := 4) (by omega) (by omega) (ctl.setWidth 12) .control
  obtain ⟨b, hb, e3⟩ := slot_next h e2 .controlAck 0#6 u (by
    intro hu; rw [head_ticks_control _ _ _ _ _ _ hu]; exact hs hu 33 (by simp))
  have e4 := field_next h e3 (n := 8) (by omega) (by omega) (len.setWidth 12) .length
  obtain ⟨c, hc, e5⟩ := slot_next h e4 .lengthAck 0#6 u (by
    intro hu; rw [head_ticks_length _ _ _ _ _ _ _ hu]; exact hs hu 43 (by simp))
  refine ⟨c, ?_, ?_⟩
  · unfold txHead
    dsimp only
    rw [ha, Res.andThen_ok, hb, Res.andThen_ok, hc]
  · rw [fieldSymbols_setWidth 4 ctl 12 (by omega), fieldSymbols_setWidth 8 len 12 (by omega)] at e5
    exact e5

@[simp] theorem txField_idx (n : Nat) (v : BitVec 12) (s : State) : (txField n v s).idx = s.idx := by
  have hb : ∀ (v : BitVec 12) (k : Nat) (s : State), (txBits v k s).idx = s.idx := by
    intro v k
    induction k with
    | zero => exact fun _ => rfl
    | succ k ih => intro s; rw [txBits, ih]; rfl
  show (txBits _ n _).idx = s.idx
  rw [hb]

theorem group_ticks (c : Config) (u : Bool) (d : Byte) :
    waveTicks c (groupSymbols u d) = (if u then 10 else 9) * c.tBit := by
  rw [groupSymbols, waveTicks_append, waveTicks_field]
  cases u <;> simp [slotSymbols, symbolTicks]
  omega

/-- The data groups of a payload from byte i on, k of them, after what has been sent, every slot stretched (R146). -/
theorem txPayload_sent {s0 s : State} {xs : List Symbol} (h : s0.cfg.wf = true) (u : Bool) (pay : Memory) (k i : Nat)
    (e : Emits s0 s xs)
    (hs : u = true → ∀ j < k, Stretched s0.cfg s0.env
      (s0.now + (waveTicks s0.cfg xs + (9 * s0.cfg.tBit + j * (10 * s0.cfg.tBit))))) :
    ∃ t, txPayload u pay k i s = .ok () t ∧
      Emits s0 t (xs ++ ((List.range k).map (fun j => pay.read (i + j))).flatMap (groupSymbols u)) := by
  induction k generalizing s xs i with
  | zero => exact ⟨s, rfl, by simpa using e⟩
  | succ k ih =>
    have e0 : Emits s0 { s with idx := BitVec.ofNat 6 i } xs := e.after rfl rfl rfl rfl rfl
    have e1 := field_next h e0 (n := 8) (by omega) (by omega) ((pay.read i).setWidth 12) .data
    obtain ⟨t, ht, e2⟩ := slot_next h e1 .dataAck (BitVec.ofNat 6 i) u (by
      intro hu
      rw [waveTicks_append, waveTicks_field]
      have := hs hu 0 (by omega)
      simpa using this)
    rw [fieldSymbols_setWidth 8 _ 12 (by omega), List.append_assoc] at e2
    obtain ⟨v, hv, e3⟩ := ih (i + 1) e2 (by
      intro hu j hj
      have := hs hu (j + 1) (by omega)
      have ha : waveTicks s0.cfg (xs ++ (fieldSymbols 8 (pay.read i) ++ slotSymbols u)) =
          waveTicks s0.cfg xs + 10 * s0.cfg.tBit := by
        have := group_ticks s0.cfg u (pay.read i)
        rw [groupSymbols] at this
        rw [waveTicks_append, this]; simp [hu]
      rw [ha]
      rw [Nat.add_mul, Nat.one_mul] at this
      rw [show waveTicks s0.cfg xs + 10 * s0.cfg.tBit + (9 * s0.cfg.tBit + j * (10 * s0.cfg.tBit)) =
        waveTicks s0.cfg xs + (9 * s0.cfg.tBit + (j * (10 * s0.cfg.tBit) + 10 * s0.cfg.tBit)) by omega]
      exact this)
    refine ⟨v, ?_, ?_⟩
    · rw [txPayload, txData]
      rw [ht, Res.andThen_ok, hv]
    · have hr : (List.range (k + 1)).map (fun j => pay.read (i + j)) =
          pay.read i :: (List.range k).map (fun j => pay.read (i + 1 + j)) := by
        rw [List.range_succ_eq_map, List.map_cons, List.map_map]
        refine congrArg₂ _ rfl (List.map_congr_left fun j _ => ?_)
        simp [Nat.add_comm, Nat.add_left_comm]
      rw [hr, List.flatMap_cons, ← List.append_assoc]
      rw [List.append_assoc] at e3
      simpa [groupSymbols, List.append_assoc] using e3

/-- The bytes of a payload by their indices. -/
theorem bytes_eq_map (m : Memory) (n : Nat) : m.bytes n = (List.range n).map m.read := by
  induction n with
  | zero => rfl
  | succ n ih => rw [Memory.bytes, ih, List.range_succ, List.map_append]; rfl

end Sys2Proof.Machine
end

