-- ==== Sys2Proof/Laws/StateCode.lean ====
section
/-! SUPPORT. `STATE_CODE` is a one-to-one map from the enumerator of `DS.STATE` to bytes (R36). -/

namespace Sys2Proof

theorem DevStatus.place_lt (st : DevStatus) : st.place < 256 := by
  cases st <;> simp only [DevStatus.place] <;> omega

theorem DevStatus.place_injective {a b : DevStatus} (h : a.place = b.place) : a = b := by
  cases a <;> cases b <;> simp only [DevStatus.place] at h <;> first | rfl | omega | skip
  exact congrArg DevStatus.other (Fin.ext (by omega))

theorem bytes_nodup : ((List.range 256).map (BitVec.ofNat 8)).Nodup := by
  refine (List.nodup_range (n := 256)).map_on fun a ha b hb h => ?_
  have := congrArg BitVec.toNat h
  simp only [List.mem_range] at ha hb
  simpa [Nat.mod_eq_of_lt ha, Nat.mod_eq_of_lt hb] using this

theorem mem_bytes (b : Byte) : b ∈ (List.range 256).map (BitVec.ofNat 8) :=
  List.mem_map.mpr ⟨b.toNat, List.mem_range.mpr b.isLt, by simp⟩

/-- Every byte is the code of some place. -/
theorem StateCodes.mem_codes (k : StateCodes) (b : Byte) : b ∈ k.codes := by
  unfold StateCodes.codes
  by_cases h : b ∈ k.all
  · exact List.mem_append_left _ h
  · exact List.mem_append_right _ (List.mem_filter.mpr ⟨mem_bytes b, by simp [h]⟩)

/-- Codes that are given without repetition stay so when they are completed. -/
theorem StateCodes.codes_nodup {k : StateCodes} (h : k.all.Nodup) : k.codes.Nodup := by
  refine h.append (bytes_nodup.filter _) fun b hb hb' => ?_
  simp [List.mem_filter, hb] at hb'

theorem StateCodes.codes_length {k : StateCodes} (h : k.all.Nodup) : k.codes.length = 256 := by
  have hp : k.codes.Perm ((List.range 256).map (BitVec.ofNat 8)) :=
    (List.perm_ext_iff_of_nodup (codes_nodup h) bytes_nodup).mpr fun b => ⟨fun _ => mem_bytes b, fun _ => k.mem_codes b⟩
  rw [hp.length_eq, List.length_map, List.length_range]

/-- The given codes are those of the first places. -/
theorem Config.stateByte_given (c : Config) {st : DevStatus} {b : Byte} (h : c.stateCode.all[st.place]? = some b) :
    c.stateByte st = b := by
  unfold Config.stateByte StateCodes.codes
  rw [List.getElem?_append_left (List.getElem?_eq_some_iff.mp h).1, h]
  rfl

theorem Config.wf_codes {c : Config} (h : c.wf = true) : c.stateCode.all.Nodup := by
  simp only [Config.wf, Config.wfTables, Bool.and_eq_true, decide_eq_true_eq] at h
  exact h.2.2

/-- Two states of an accepted configuration with one code are the same state (R36). -/
theorem Config.stateByte_injective {c : Config} (h : c.wf = true) {a b : DevStatus} (hab : c.stateByte a = c.stateByte b) :
    a = b := by
  have hn := StateCodes.codes_nodup (wf_codes h)
  have hl := StateCodes.codes_length (wf_codes h)
  have ha : a.place < c.stateCode.codes.length := by rw [hl]; exact a.place_lt
  have hb : b.place < c.stateCode.codes.length := by rw [hl]; exact b.place_lt
  simp only [Config.stateByte, List.getElem?_eq_getElem ha, List.getElem?_eq_getElem hb, Option.getD_some] at hab
  exact DevStatus.place_injective ((hn.getElem_inj_iff).mp hab)

end Sys2Proof
end

