-- ==== Sys2Proof/Tests/Slice0.lean ====
section
/-! SUPPORT. Tests: the checks of WellFormed, words and symbols written out from the encodings, one step at a time the
vectors of spec/95_test_vectors.md (V1 to V60, configuration REF), and for each obligation that has hypotheses a state
and operands that meet them. -/

set_option Elab.async false

namespace Sys2Proof.Tests

open Sys2Proof.Machine

/-! ## Helpers -/

/-- The reset state on a bus where others drive the given stretches. -/
def onBus (env : List (Nat × Nat)) : State := { State.reset with env := env }

/-- A short well-formed timing: every bit takes four ticks. -/
def tiny : Config :=
  { refConfig with tBit := 4, t1Driven := 1, t0Driven := 3, tThreshold := 2, tMaxBit := 4, tStartMin := 5,
                   tStartDriven := 5, tStartMax := 6, tStartFloat := 1 }

/-- The same with a longest bit of six ticks, so that an ack slot can be held beyond the bit period. -/
def slack : Config := { tiny with tMaxBit := 6, tStartMin := 7, tStartDriven := 7, tStartMax := 8 }

/-- The reset state under the short timing. -/
def tinyBus (env : List (Nat × Nat)) : State := { onBus env with cfg := tiny }

/-- A step gave a next state, and a property holds of it. -/
def gives (o : Host.Outcome State Fault Refusal) (p : State → Prop) [DecidablePred p] : Bool :=
  match o with
  | .next s => decide (p s)
  | .fault _ => false
  | .refused _ => false

/-- RESULT with no position. -/
abbrev res (c : ResCode) : ResultReg := raised c

/-- A frame; its payload from index 0 on. -/
def frame (unicast : Bool) (snd rcv : Addr) (bytes : List Byte) : Frame :=
  { unicast := unicast, sender := snd, receiver := rcv, control := 0xF#4, length := BitVec.ofNat 6 bytes.length,
    pay := Memory.writeBytes [] 0 bytes }

/-- DS = (PLAY, 0x01, mm:ss, PLAYING). -/
def playing (mm ss : Byte) : DeviceState := { resetDs with mode := .play, status := .playing, min := mm, sec := ss }

/-- 0 and 1 as symbols. -/
abbrev o : Symbol := .zero
abbrev l : Symbol := .one

/-! ## WellFormed: one ill-formed term for each check -/

theorem test_wf_refuses_field_widths : ([Instr.txField 0#4 1#12, .txField 13#4 1#12, .rxField 0#4, .rxField 15#4].map
    (Instr.wf 4)) = [false, false, false, false] := by decide +kernel

theorem test_wf_refuses_unknown_actions :
    ([Instr.applyAction 5#8, .respond 5#8].map (Instr.wf 4)) = [false, false] := by decide +kernel

theorem test_wf_refuses_selectors :
    ([Instr.wrTxf 5#6 0#12, .wrTxf 31#6 0#12, .rdReg 13#8, .rdReg 22#8, .rdReg 73#8].map (Instr.wf 4)) =
      [false, false, false, false, false] := by decide +kernel

theorem test_wf_refuses_lengths :
    ([Instr.frameHeadUnicast 0#12 0#12 0#4 0#8, .frameHeadUnicast 0#12 0#12 0#4 33#8,
      .frameHeadBroadcast 0#12 0#12 0#4 0#8, .frameHeadBroadcast 0#12 0#12 0#4 255#8].map (Instr.wf 4)) =
      [false, false, false, false] := by decide +kernel

theorem test_wf_accepts_limits :
    ([Instr.txField 12#4 0xFFF#12, .rxField 1#4, .applyAction 4#8, .respond 0#8, .wrTxf 63#6 0#12, .rdReg 72#8,
      .frameHeadUnicast 0#12 0#12 0#4 32#8, .frameHeadBroadcast 0#12 0#12 0#4 1#8].map (Instr.wf 4)).all id = true := by
  decide +kernel

/-! ## Configurations: REF is accepted, and one break of each clause of R8 is refused -/

theorem test_ref_is_well_formed : refConfig.wf = true := by decide +kernel

theorem test_tiny_is_well_formed : tiny.wf = true := by decide +kernel

theorem test_slack_is_well_formed : slack.wf = true := by decide +kernel

theorem test_broken_configurations_are_refused :
    ([{ refConfig with t1Driven := 26 }, { refConfig with t0Driven := 26 }, { refConfig with t0Driven := 39 },
      { refConfig with tMaxBit := 38 }, { refConfig with tMaxBit := 150 }, { refConfig with tStartMin := 169 },
      { refConfig with tStartMax := 167 }, { refConfig with tStartFloat := 0 }, { refConfig with tStartFloat := 39 },
      { refConfig with wTimer := 7 }, { refConfig with queueCap := 3 }, { refConfig with queueCap := 256 },
      { refConfig with cmdTable := [{ mode := .unicast, pattern := [], action := 1#8 }] },
      { refConfig with templates := [{ mode := .unicast, bytes := [0#8], patches := [(1, .min)] }] }].map Config.wf).all
      (fun b => !b) = true := by decide +kernel

theorem test_step_refuses_a_broken_configuration :
    (step { State.reset with cfg.queueCap := 3 } matches .refused .illFormedConfig) = true := by decide +kernel

/-- STATE_CODE of REF (95_test_vectors part 1), and a configured code of OTHER(0), which RD_REG 68 shows. -/
theorem test_state_codes :
    ([DevStatus.idle, .seeking, .playing, .loading, .error].map refConfig.stateByte) = [0x00#8, 0x01#8, 0x02#8, 0x03#8, 0x04#8] ∧
    gives (exec (.rdReg 68#8) { State.reset with cfg.stateCode.others := [0xEE#8], ds.status := .other 0 })
      (fun t => t.val = 0x0EE#12 ∧ t.result = res .ok) = true := by decide +kernel

/-! ## Decoding: words of the host port, OP in bits 4..0, ARG0 in 19..8, ARG1 in 31..20 (R95) -/

/-- The operations without operands, bit by bit (R95, R97). -/
theorem test_decode_plain_operations :
    decodeTableWord 8 0b00000000 = some .nop ∧ decodeTableWord 8 0b00000010 = some .txStart ∧
    decodeTableWord 8 0b00000100 = some .rxBit ∧ decodeTableWord 8 0b00000110 = some .rxStart ∧
    decodeTableWord 8 0b00000111 = some .ackRead ∧ decodeTableWord 8 0b00001000 = some .ackSend ∧
    decodeTableWord 8 0b00001001 = some .mask ∧ decodeTableWord 8 0b00001011 = some .busFree ∧
    decodeTableWord 8 0b00001100 = some .sendFrame ∧ decodeTableWord 8 0b00001101 = some .readFrame ∧
    decodeTableWord 8 0b00001110 = some .dispatch ∧ decodeTableWord 8 0b00010000 = some .tick ∧
    decodeTableWord 8 0b00010010 = some .buildStatus ∧ decodeTableWord 8 0b00010011 = some .qPush ∧
    decodeTableWord 8 0b00010100 = some .qPop ∧ decodeTableWord 8 0b00010101 = some .qDrain ∧
    decodeTableWord 8 0b00010110 = some .runStep ∧ decodeTableWord 8 0b00011001 = some .reset := by decide +kernel

theorem test_decode_reserved_operations :
    decodeTableWord 8 0b00011010 = some .reserved1A ∧ decodeTableWord 8 0b00011011 = some .reserved1B ∧
    decodeTableWord 8 0b00011100 = some .reserved1C ∧ decodeTableWord 8 0b00011101 = some .reserved1D ∧
    decodeTableWord 8 0b00011110 = some .reserved1E ∧ decodeTableWord 8 0b00011111 = some .reserved1F := by decide +kernel

/-- Words of programs P2, P3 and P5, and the bits above an operand, which are ignored (R97). -/
theorem test_decode_operations_with_operands :
    decodePort ⟨0x01#5, 0x000#12, 0x000#12⟩ = .txBit false ∧ decodePort ⟨0x03#5, 0x00C#12, 0x360#12⟩ = .txField 12#4 0x360#12 ∧
    decodePort ⟨0x05#5, 0x00C#12, 0x000#12⟩ = .rxField 12#4 ∧ decodePort ⟨0x0A#5, 0x000#12, 0x000#12⟩ = .unmask false ∧
    decodePort ⟨0x0F#5, 0x004#12, 0x000#12⟩ = .applyAction 4#8 ∧ decodePort ⟨0x11#5, 0x003#12, 0x000#12⟩ = .respond 3#8 ∧
    decodePort ⟨0x17#5, 0x020#12, 0x05A#12⟩ = .wrTxf 32#6 0x05A#12 ∧ decodePort ⟨0x18#5, 0x042#12, 0x000#12⟩ = .rdReg 66#8 ∧
    decodePort ⟨0x01#5, 0xFFF#12, 0xABC#12⟩ = .txBit true ∧ decodePort ⟨0x05#5, 0xFF3#12, 0xABC#12⟩ = .rxField 3#4 ∧
    decodePort ⟨0x17#5, 0xFC1#12, 0x360#12⟩ = .wrTxf 1#6 0x360#12 := by decide +kernel

/-! ## Decoding: the symbols of the wire, from the strings of 95_test_vectors (R80, R82, R83) -/

theorem test_decode_symbols :
    decode refConfig (.wire .symbol [.one]) = .ok .symbol1 ∧ decode refConfig (.wire .symbol [.zero]) = .ok .symbol0 ∧
    decode refConfig (.wire .symbol [.start]) = .ok .symbolStart ∧
    decode refConfig (.wire (.ackSlot .sender) [.one]) = .ok (.ackSlot .sender) ∧
    decode refConfig (.wire (.ackSlot .receiver) [.zero]) = .ok (.ackSlot .receiver) ∧
    decodeDataPulse refConfig 25 = .ok .one ∧ decodeDataPulse refConfig 26 = .ok .zero ∧
    decodeDataPulse refConfig 45 = .ok .zero ∧ decodeDataPulse refConfig 46 = .error .desync ∧
    decodeStartPulse refConfig 149 = .error .startShort ∧ decodeStartPulse refConfig 150 = .ok .start ∧
    decodeStartPulse refConfig 190 = .ok .start ∧ decodeStartPulse refConfig 191 = .error .startLong := by decide +kernel

/-- The head of V20, `S 0 001101100000 0 000111111111 1 1111 0 00000001 1`. -/
theorem test_decode_broadcast_head :
    decode refConfig (.wire .head ([Symbol.start, o] ++ [o, o, l, l, o, l, l, o, o, o, o, o, o] ++
      [o, o, o, l, l, l, l, l, l, l, l, l, l] ++ [l, l, l, l, o] ++ [o, o, o, o, o, o, o, l, l])) =
      .ok (.frameHeadBroadcast 0x360#12 0x1FF#12 0xF#4 1#8) := by decide +kernel

/-- The head of V21, `S 1 001101100000 0 000110010000 1 A 1111 0 A 00000010 1 A`, an `A` being a stretched slot. -/
theorem test_decode_unicast_head :
    decode refConfig (.wire .head ([Symbol.start, l] ++ [o, o, l, l, o, l, l, o, o, o, o, o, o] ++
      [o, o, o, l, l, o, o, l, o, o, o, o, l] ++ [o] ++ [l, l, l, l, o] ++ [o] ++ [o, o, o, o, o, o, l, o, l] ++ [o])) =
      .ok (.frameHeadUnicast 0x360#12 0x190#12 0xF#4 2#8) := by decide +kernel

/-- The data groups `10100001 1 A` of V21 and `01011010 0` of V20, and a group with a wrong parity bit. -/
theorem test_decode_groups :
    decode refConfig (.wire (.group true) [l, o, l, o, o, o, o, l, l, o]) = .ok (.dataGroupUnicast 0xA1#8) ∧
    decode refConfig (.wire (.group false) [o, l, o, l, l, o, l, o, o]) = .ok (.dataGroupBroadcast 0x5A#8) ∧
    decode refConfig (.wire (.group false) [o, l, o, l, l, o, l, o, l]) = .error .parity := by decide +kernel

/-- The encoder lays V20 and V21 out as the strings of 95_test_vectors. -/
theorem test_symbols_of_frames :
    frameSymbols refConfig (frame false 0x360#12 0x1FF#12 [0x5A#8]) =
      [Symbol.start, o] ++ [o, o, l, l, o, l, l, o, o, o, o, o, o] ++ [o, o, o, l, l, l, l, l, l, l, l, l, l] ++
        [l, l, l, l, o] ++ [o, o, o, o, o, o, o, l, l] ++ [o, l, o, l, l, o, l, o, o] ∧
    (frameSymbols refConfig (frame true 0x360#12 0x190#12 [0xA1#8, 0x01#8])).length = 65 := by decide +kernel

/-! ## The Bit Codec -/

/-- V1. -/
theorem test_txBit_one :
    gives (exec (.txBit true) (onBus [])) (fun t => t.now = 39 ∧ t.drvLog = [(20, false), (0, true)] ∧
      t.result = res .ok) = true := by decide +kernel

/-- V2. -/
theorem test_txBit_zero :
    gives (exec (.txBit false) (onBus [])) (fun t => t.now = 39 ∧ t.drvLog = [(32, false), (0, true)]) = true := by decide +kernel

/-- V3. -/
theorem test_txStart :
    gives (exec .txStart (onBus [])) (fun t => t.now = 186 ∧ t.drvLog = [(168, false), (0, true)]) = true := by decide +kernel

/-- V4f: the bits of ARG1 above bit 3 are ignored. -/
theorem test_txField_sends_parity :
    gives (exec (.txField 4#4 0xABF#12) (onBus [])) (fun t => t.now = 195 ∧ t.drvLog =
      [(188, false), (156, true), (137, false), (117, true), (98, false), (78, true), (59, false), (39, true),
       (20, false), (0, true)]) = true := by decide +kernel

/-- V5b. -/
theorem test_txField_refuses_width :
    gives (exec (.txField 13#4 1#12) (onBus [])) (fun t => t.now = 0 ∧ t.drvLog = [] ∧ t.diag = [] ∧
      t.result = res .badop) = true := by decide +kernel

/-- V6c, V7a. -/
theorem test_rxBit_at_the_threshold :
    gives (exec .rxBit (onBus [(5, 25)])) (fun t => t.val = 1#12 ∧ t.dur = 25 ∧ t.par = true ∧ t.now = 30) = true ∧
    gives (exec .rxBit (onBus [(5, 26)])) (fun t => t.val = 0#12 ∧ t.dur = 26 ∧ t.par = false ∧ t.now = 31) = true := by
  decide +kernel

/-- V8a, V8c, V9, V12. -/
theorem test_rxBit_desync :
    gives (exec .rxBit (onBus [(5, 46)])) (fun t => t.result = res .desync ∧ t.dur = 46 ∧ t.now = 51) = true ∧
    gives (exec .rxBit (onBus [(5, 400)])) (fun t => t.result = res .desync ∧ t.dur = 90 ∧ t.now = 95) = true ∧
    gives (exec .rxBit (onBus [])) (fun t => t.diag = [res .desync] ∧ t.now = 90 ∧ t.drv = false) = true := by decide +kernel

/-- V13. -/
theorem test_rxField :
    gives (exec (.rxField 4#4) (onBus [(3, 20), (42, 20), (81, 32), (120, 32)])) (fun t => t.val = 0xC#12 ∧
      t.shift = 0xC#12 ∧ t.par = false ∧ t.now = 152) = true := by decide +kernel

/-- V13b. -/
theorem test_rxField_runs_dry :
    gives (exec (.rxField 4#4) (onBus [(3, 20), (42, 20)])) (fun t => t.result = res .desync ∧ t.val = 0#12 ∧
      t.par = false ∧ t.now = 152) = true := by decide +kernel

/-- V14b, V14d. -/
theorem test_rxStart_accepts :
    gives (exec .rxStart (onBus [(3, 150)])) (fun t => t.result = res .ok ∧ t.dur = 150 ∧ t.now = 153) = true ∧
    gives (exec .rxStart (onBus [(3, 190)])) (fun t => t.result = res .ok ∧ t.now = 193) = true := by decide +kernel

/-- V14a, V14e, V14g. -/
theorem test_rxStart_refuses :
    gives (exec .rxStart (onBus [(3, 149)])) (fun t => t.result = res .startShort ∧ t.dur = 149 ∧ t.now = 152) = true ∧
    gives (exec .rxStart (onBus [(3, 191)])) (fun t => t.result = res .startLong ∧ t.dur = 191 ∧ t.now = 194) = true ∧
    gives (exec .rxStart (onBus [])) (fun t => t.result = res .desync ∧ t.now = 90) = true := by decide +kernel

/-- V15b, V15c, V15e. -/
theorem test_ackRead :
    gives (exec .ackRead (onBus [(0, 25)])) (fun t => t.val = 0#12 ∧ t.dur = 25 ∧ t.now = 39) = true ∧
    gives (exec .ackRead (onBus [(0, 26)])) (fun t => t.val = 1#12 ∧ t.dur = 26 ∧ t.now = 39) = true ∧
    gives (exec .ackRead (onBus [(0, 45)])) (fun t => t.val = 1#12 ∧ t.now = 45) = true := by decide +kernel

/-- V15f, V15g. -/
theorem test_ackRead_too_long :
    gives (exec .ackRead (onBus [(0, 46)])) (fun t => t.val = 0#12 ∧ t.dur = 46 ∧ t.now = 46) = true ∧
    gives (exec .ackRead (onBus [(0, 200)])) (fun t => t.val = 0#12 ∧ t.dur = 90 ∧ t.now = 90 ∧
      t.result = res .ok) = true := by decide +kernel

/-- V16a. -/
theorem test_ackSend :
    gives (exec .ackSend (onBus [(4, 20)])) (fun t => t.now = 36 ∧ t.drvLog = [(36, false), (4, true)] ∧
      t.result = res .ok) = true := by decide +kernel

/-- V16b, V16c. -/
theorem test_ackSend_desync :
    gives (exec .ackSend (onBus [])) (fun t => t.now = 90 ∧ t.drvLog = [(90, false)]) = true ∧
    gives (exec .ackSend (onBus [(4, 999)])) (fun t => t.now = 126 ∧ t.result = res .desync ∧ t.drv = false) = true := by
  decide +kernel

/-! ## The Frame Transport -/

/-- V17a, V17b. -/
theorem test_mask :
    gives (exec .mask (onBus [])) (fun t => t.val = 0#12 ∧ t.masked = true) = true ∧
    gives (exec .mask { onBus [] with masked := true }) (fun t => t.val = 1#12 ∧ t.masked = true) = true := by decide +kernel

/-- V17d. -/
theorem test_unmask_serves :
    gives (exec (.unmask false) { onBus [] with masked := true, tickLatch := true, ds := playing 0x00#8 0x07#8 })
      (fun t => t.masked = false ∧ t.tickLatch = false ∧ t.ds = playing 0x00#8 0x08#8 ∧ t.respPending = true) = true := by
  decide +kernel

/-- V17e. -/
theorem test_unmask_keeps_the_latch :
    gives (exec (.unmask true) { onBus [] with masked := true, tickLatch := true })
      (fun t => t.masked = true ∧ t.tickLatch = true ∧ t.respPending = false) = true := by decide +kernel

/-- V18a, V18e. -/
theorem test_busFree_free :
    gives (exec .busFree (onBus [(39, 5)])) (fun t => t.val = 1#12 ∧ t.now = 39 ∧ t.result = res .ok) = true := by decide +kernel

/-- V18c, V18d. -/
theorem test_busFree_busy :
    gives (exec .busFree (onBus [(38, 5)])) (fun t => t.val = 0#12 ∧ t.now = 38 ∧ t.result = res .busy) = true ∧
    gives (exec .busFree (onBus [(0, 5)])) (fun t => t.val = 0#12 ∧ t.now = 0) = true := by decide +kernel

/-- V20. -/
theorem test_sendFrame_broadcast :
    gives (exec .sendFrame { onBus [] with txf := frame false 0x360#12 0x1FF#12 [0x5A#8] })
      (fun t => t.result = res .ok ∧ t.now = 2175 ∧ t.drvLog.length = 103 ∧ t.diag = [] ∧ t.masked = false) = true := by
  decide +kernel

/-- V22. -/
theorem test_sendFrame_nobody_acknowledges :
    gives (exec .sendFrame { onBus [] with txf := frame true 0x360#12 0x190#12 [0xA1#8, 0x01#8] })
      (fun t => t.result = ⟨.nak, .addrAck, 0#6⟩ ∧ t.now = 1317 ∧ t.diag = [⟨.nak, .addrAck, 0#6⟩]) = true := by decide +kernel

/-- The frame of V30 under the short timing: symbol k begins at `5 + 6 + 4·(k−1)`, so the five slots, symbols 28, 34, 44,
54 and 64, begin at 119, 143, 183, 223 and 263. -/
theorem test_readFrame_for_me :
    gives (exec .readFrame (tinyBus (waveOf tiny 5 (frameSymbols tiny (frame true 0x190#12 0x360#12 [0xA0#8, 0x01#8])))))
      (fun t => t.result = res .ok ∧ t.now = 266 ∧ t.rxf = ⟨true, frame true 0x190#12 0x360#12 [0xA0#8, 0x01#8]⟩ ∧
        t.drvLog = [(266, false), (266, false), (263, true), (226, false), (223, true), (186, false), (183, true),
          (146, false), (143, true), (122, false), (119, true)] ∧ t.par = false) = true := by decide +kernel

/-- V32: a frame for another device, (a) acknowledged there, and (b) left after its first slot. -/
theorem test_readFrame_for_another_device :
    gives (exec .readFrame (onBus (pulseWave 0 (heardPulses refConfig (slotNumbers true 2) (fun _ => (32, 39))
        (frameSymbols refConfig (frame true 0x190#12 0x1D0#12 [0xA0#8, 0x01#8]))))))
      (fun t => t.result = res .ok ∧ t.now = 2675 ∧ t.rxf = ⟨true, frame true 0x190#12 0x1D0#12 [0xA0#8, 0x01#8]⟩ ∧
        t.drvLog.all (fun p => !p.2) = true) = true ∧
    gives (exec .readFrame (onBus ((waveOf refConfig 0
        (frameSymbols refConfig (frame true 0x190#12 0x1D0#12 [0xA0#8, 0x01#8]))).take 29)))
      (fun t => t.result = ⟨.desync, .control, 0#6⟩ ∧ t.now = 1349 ∧ t.rxf.valid = false) = true := by decide +kernel

/-- V33 under the short timing: the parity pulse of the receiver, symbol 27 at `6 + 4·26 = 110`, sent as a `1`. -/
theorem test_readFrame_wrong_parity :
    gives (exec .readFrame (tinyBus (waveOf tiny 0 ((frameSymbols tiny
        (frame true 0x190#12 0x360#12 [0xA0#8, 0x01#8])).modify 27 flipSymbol))))
      (fun t => t.result = ⟨.parity, .receiver, 0#6⟩ ∧ t.now = 111 ∧ t.rxf.valid = false ∧
        t.diag = [⟨.parity, .receiver, 0#6⟩]) = true := by decide +kernel

/-! ## Dispatcher, Device State Model, Response Generator -/

/-- V40 rows 1 and 2. -/
theorem test_dispatch_first_match :
    gives (exec .dispatch { onBus [] with rxf := ⟨true, frame true 0x190#12 0x360#12 [0xA0#8, 0x01#8]⟩ })
      (fun t => t.act = 3#8 ∧ t.val = 3#12) = true ∧
    gives (exec .dispatch { onBus [] with rxf := ⟨true, frame true 0x190#12 0x360#12 [0xA0#8, 0x02#8]⟩ })
      (fun t => t.act = 4#8) = true := by decide +kernel

/-- V40 rows 5 and 6. -/
theorem test_dispatch_none :
    gives (exec .dispatch { onBus [] with rxf := ⟨true, frame false 0x190#12 0x1FF#12 [0xA0#8, 0x01#8]⟩ })
      (fun t => t.act = 0#8) = true ∧
    gives (exec .dispatch { onBus [] with rxf := ⟨true, frame true 0x190#12 0x1D0#12 [0xA0#8, 0x01#8]⟩ })
      (fun t => t.act = 0#8) = true := by decide +kernel

/-- R182, P1 step 1: PLAY. -/
theorem test_applyAction_play :
    gives (exec (.applyAction 3#8) (onBus [])) (fun t => t.ds = playing 0x00#8 0x00#8 ∧ t.respPending = true) = true := by
  decide +kernel

/-- R183: an identifier above N_ACTIONS. -/
theorem test_applyAction_unknown :
    gives (exec (.applyAction 5#8) (onBus [])) (fun t => t.result = res .badop ∧ t.ds = resetDs) = true := by decide +kernel

/-- V46, V47: 12:59 and the documented defect at 99:59. -/
theorem test_tick_carries :
    gives (exec .tick { onBus [] with ds := playing 0x12#8 0x59#8 }) (fun t => t.ds = playing 0x13#8 0x00#8) = true ∧
    gives (exec .tick { onBus [] with ds := playing 0x99#8 0x59#8 }) (fun t => t.ds = playing 0xA0#8 0x00#8) = true := by
  decide +kernel

/-- P4 step 1: in STOP mode the time stands, and a response is pending. -/
theorem test_tick_in_stop_mode :
    gives (exec .tick (onBus [])) (fun t => t.ds = resetDs ∧ t.respPending = true) = true := by decide +kernel

/-- V51: RESPOND STOP on an empty queue. -/
theorem test_respond_queues :
    gives (exec (.respond 4#8) (onBus [])) (fun t => t.qw = 2#8 ∧ t.result = res .ok ∧ queueContents t =
      [frame true 0x360#12 0x190#12 [0xA1#8, 0x00#8], frame false 0x360#12 0x1FF#12 [0x5B#8, 0x01#8, 0x00#8]]) = true := by
  decide +kernel

/-- V51: with three frames queued the second one is dropped. -/
theorem test_respond_overflows :
    gives (exec (.respond 4#8) { onBus [] with qw := 3#8 }) (fun t => t.qw = 4#8 ∧ t.ovfCount = 1#16 ∧
      t.result = res .overflow ∧ t.diag = [res .overflow]) = true := by decide +kernel

/-- V52. -/
theorem test_buildStatus :
    gives (exec .buildStatus { onBus [] with respPending := true, ds := { playing 0x12#8 0x59#8 with track := 0x03#8 } })
      (fun t => t.respPending = false ∧ queueContents t =
        [frame false 0x360#12 0x1FF#12 [0x5A#8, 0x02#8, 0x03#8, 0x12#8, 0x59#8, 0x08#8]]) = true := by decide +kernel

/-- V52: a full queue clears RESP_PENDING all the same. -/
theorem test_buildStatus_full :
    gives (exec .buildStatus { onBus [] with respPending := true, qw := 4#8 }) (fun t => t.respPending = false ∧
      t.ovfCount = 1#16 ∧ t.qw = 4#8 ∧ t.result = res .overflow) = true := by decide +kernel

/-- V53: the index wrap, `QW = QR = 254`, and the overflow. -/
theorem test_qPush :
    gives (exec .qPush { onBus [] with qw := 254#8, qr := 254#8, txf := frame false 0x360#12 0x1FF#12 [0x01#8] })
      (fun t => t.qw = 255#8 ∧ t.slots = [(2, frame false 0x360#12 0x1FF#12 [0x01#8])]) = true ∧
    gives (exec .qPush { onBus [] with qw := 2#8, qr := 254#8 }) (fun t => t.qw = 2#8 ∧ t.slots = [] ∧
      t.result = res .overflow) = true := by decide +kernel

/-- V53. -/
theorem test_qPop :
    gives (exec .qPop { onBus [] with qw := 5#8, qr := 4#8, slots := [(0, frame false 0x360#12 0x1FF#12 [0x04#8])] })
      (fun t => t.qr = 5#8 ∧ t.txf = frame false 0x360#12 0x1FF#12 [0x04#8]) = true ∧
    gives (exec .qPop (onBus [])) (fun t => t.result = res .empty) = true := by decide +kernel

/-- V54 (d): three BUSY attempts, and the frame is dropped. -/
theorem test_qDrain_drops :
    gives (exec .qDrain { onBus [(10, 100)] with qw := 1#8, slots := [(0, frame false 0x360#12 0x1FF#12 [0x01#8])] })
      (fun t => t.now = 10 ∧ t.qr = 1#8 ∧ t.dropCount = 1#16 ∧ t.result = res .busy ∧
        t.diag = [res .busy, res .busy, res .busy, res .dropped]) = true := by decide +kernel

/-- V54 (a). -/
theorem test_qDrain_empty :
    gives (exec .qDrain (onBus [])) (fun t => t.result = res .empty ∧ t.now = 0 ∧ t.diag = []) = true := by decide +kernel

/-- P1 step 1 under the short timing: the last slot, symbol 64, begins at `6 + 4·63 = 258`. -/
theorem test_runStep_receives :
    gives (exec .runStep (tinyBus (waveOf tiny 0 (frameSymbols tiny (frame true 0x190#12 0x360#12 [0xA0#8, 0x01#8])))))
      (fun t => t.now = 261 ∧ t.act = 3#8 ∧ t.ds = playing 0x00#8 0x00#8 ∧ t.respPending = true ∧
        queueContents t = [frame true 0x360#12 0x190#12 [0xA1#8, 0x01#8]] ∧ t.result = res .ok) = true := by decide +kernel

/-- V55 (c). -/
theorem test_runStep_idle :
    gives (exec .runStep (onBus [])) (fun t => t.now = 0 ∧ t.result = res .ok ∧ t.qw = 0#8) = true := by decide +kernel

/-! ## The host port, and the step -/

/-- V56. -/
theorem test_wrTxf :
    gives (exec (.wrTxf 63#6 0x1A5#12) (onBus [])) (fun t => t.txf.pay = [(31, 0xA5#8)] ∧ t.result = res .ok) = true ∧
    gives (exec (.wrTxf 5#6 0x000#12) (onBus [])) (fun t => t.txf = Frame.zero ∧ t.result = res .badop) = true := by decide +kernel

/-- V56: RD_REG 32 after V30, and RD_REG 13. -/
theorem test_rdReg :
    gives (exec (.rdReg 32#8) { onBus [] with rxf := ⟨true, frame true 0x190#12 0x360#12 [0xA0#8, 0x01#8]⟩ })
      (fun t => t.val = 0x0A0#12) = true ∧
    gives (exec (.rdReg 13#8) { onBus [] with val := 7#12 }) (fun t => t.val = 0#12 ∧ t.result = res .badop) = true := by
  decide +kernel

/-- V57. -/
theorem test_reset :
    gives (exec .reset { onBus [] with qw := 5#8, qr := 5#8, dropCount := 1#16, ovfCount := 1#16, now := 6828 })
      (fun t => t.qw = 0#8 ∧ t.qr = 0#8 ∧ t.dropCount = 0#16 ∧ t.ovfCount = 0#16 ∧ t.now = 6828 ∧ t.timer = 0) = true := by
  decide +kernel

/-- V56: a reserved code. -/
theorem test_reserved :
    gives (exec .reserved1C { onBus [] with val := 7#12 }) (fun t => t.result = res .badop ∧ t.val = 7#12 ∧
      t.diag = []) = true := by decide +kernel

/-- V56. -/
theorem test_nop :
    gives (exec .nop { onBus [] with result := res .badop }) (fun t => t.result = res .ok ∧ t.now = 0) = true := by decide +kernel

/-- R80, R85: the rows of the wire. -/
theorem test_wire_symbols :
    gives (exec .symbol1 (onBus [])) (fun t => t.now = 39 ∧ t.drvLog = [(20, false), (0, true)]) = true ∧
    gives (exec .symbol0 (onBus [])) (fun t => t.now = 39 ∧ t.drvLog = [(32, false), (0, true)]) = true ∧
    gives (exec .symbolStart (onBus [])) (fun t => t.now = 186 ∧ t.drvLog = [(168, false), (0, true)]) = true ∧
    gives (exec (.ackSlot .sender) (onBus [(0, 32)])) (fun t => t.val = 1#12 ∧ t.dur = 32 ∧ t.now = 39) = true ∧
    gives (exec (.ackSlot .receiver) (onBus [(4, 20)])) (fun t => t.drvLog = [(36, false), (4, true)]) = true := by decide +kernel

/-- V20 without its check and its data group; V21 stopped at its first slot. -/
theorem test_wire_heads :
    gives (exec (.frameHeadBroadcast 0x360#12 0x1FF#12 0xF#4 1#8) (onBus [])) (fun t => t.now = 186 + 41 * 39 ∧
      t.result = res .ok ∧ t.seq = .idle) = true ∧
    gives (exec (.frameHeadUnicast 0x360#12 0x190#12 0xF#4 2#8) (onBus [])) (fun t => t.now = 1317 - 39 ∧
      t.result = ⟨.nak, .addrAck, 0#6⟩) = true := by decide +kernel

/-- A group on its own has no part in a payload: IDX, left over from an earlier operation, is not read (R23). -/
theorem test_wire_group_does_not_read_idx :
    gives (exec (.dataGroupUnicast 0xA1#8) { onBus [] with idx := 45#6 }) (fun t => t.result = ⟨.nak, .dataAck, 0#6⟩ ∧
      t.diag = [⟨.nak, .dataAck, 0#6⟩]) = true := by decide +kernel

/-- A data group of nine symbols, and of ten with its slot. -/
theorem test_wire_groups :
    gives (exec (.dataGroupBroadcast 0x5A#8) (onBus [])) (fun t => t.now = 351 ∧ t.result = res .ok) = true ∧
    gives (exec (.dataGroupUnicast 0xA1#8) (onBus [(351, 32)])) (fun t => t.now = 390 ∧ t.result = res .ok) = true := by
  decide +kernel

/-- P2 step 7: the tick at 1000 is latched and served at the exit, after RESULT. -/
theorem test_tick_inside_a_send :
    gives (exec .sendFrame { onBus [] with
        txf := frame false 0x360#12 0x1FF#12 [0x5A#8], arrivals := [1000], ds := playing 0x99#8 0x59#8 })
      (fun t => t.now = 2175 ∧ t.ds = playing 0xA0#8 0x00#8 ∧ t.respPending = true ∧ t.tickLatch = false ∧
        t.arrivals = [] ∧ t.result = res .ok) = true := by decide +kernel

/-- V60 (a), (b): an arrival between operations. -/
theorem test_arrival_between_operations :
    gives (step { onBus [] with arrivals := [0], ds := playing 0x00#8 0x07#8, result := res .busy })
      (fun t => t.ds = playing 0x00#8 0x08#8 ∧ t.respPending = true ∧ t.result = res .busy ∧ t.arrivals = []) = true ∧
    gives (step { onBus [] with inputs := [.tick], masked := true, ds := playing 0x00#8 0x07#8 })
      (fun t => t.ds = playing 0x00#8 0x07#8 ∧ t.tickLatch = true ∧ t.inputs = []) = true := by decide +kernel

/-- R240: an arrival inside an idle stretch ends it there, and is served at its own tick; the rest follows. -/
theorem test_arrival_inside_an_idle_stretch :
    gives (step { onBus [] with arrivals := [70, 40], inputs := [.idle 100] })
      (fun t => t.now = 40 ∧ t.inputs = [.idle 60] ∧ t.arrivals = [70, 40]) = true ∧
    gives (step { onBus [] with now := 40, arrivals := [70, 40], inputs := [.idle 60] })
      (fun t => t.now = 40 ∧ t.inputs = [.idle 60] ∧ t.arrivals = [70] ∧ t.respPending = true) = true := by decide +kernel

/-- A word placed for the fetch is the next operation: `WR_TXF SENDER, 0x360` of P2. -/
theorem test_fetch_runs_the_word :
    gives (step (State.withFetchWord State.reset 32 0x36000117)) (fun t => t.txf.sender = 0x360#12 ∧ t.inputs = []) = true := by
  decide +kernel

/-! ## Witnesses: for each obligation that has hypotheses, a state and operands that meet them -/

/-- Bounded checks of the line. -/
theorem quiet_of {env : List (Nat × Nat)} {a b : Nat} (h : ∀ k, k < b - a → envDrives env (a + k) = false) :
    QuietFrom env a b := fun u hu hb => by
  have := h (u - a) (by omega)
  rwa [show a + (u - a) = u by omega] at this

theorem driven_of {env : List (Nat × Nat)} {a b : Nat} (h : ∀ k, k < b - a → envDrives env (a + k) = true) :
    DrivenFrom env a b := fun u hu hb => by
  have := h (u - a) (by omega)
  rwa [show a + (u - a) = u by omega] at this

theorem pulse_of {env : List (Nat × Nat)} {t g d : Nat} (h : ∀ k, k < g → envDrives env (t + k) = false)
    (h' : ∀ k, k < d → envDrives env (t + g + k) = true) (h'' : envDrives env (t + g + d) = false) :
    PulseAt env t g d :=
  ⟨quiet_of (by simpa using h), driven_of (by simpa using h'), h''⟩

/-- One block hears what the other drives from tick a on, checked up to a tick after which neither has anything. -/
def hears (env : List (Nat × Nat)) (log : List (Nat × Bool)) (a stop : Nat) : Bool :=
  env.all (fun p => decide (p.1 + p.2 ≤ stop)) && log.all (fun p => decide (p.1 ≤ stop)) && !drvAt log stop &&
    (List.range stop).all (fun u => envDrives env u == (decide (a ≤ u) && drvAt log u))

theorem hears_spec {env : List (Nat × Nat)} {log : List (Nat × Bool)} {a stop : Nat} (h : hears env log a stop = true) :
    ∀ u, envDrives env u = (decide (a ≤ u) && drvAt log u) := by
  simp only [hears, Bool.and_eq_true, List.all_eq_true, decide_eq_true_eq, Bool.not_eq_true', List.mem_range,
    beq_iff_eq] at h
  obtain ⟨⟨⟨h1, h2⟩, h3⟩, h4⟩ := h
  intro u
  by_cases hu : u < stop
  · exact h4 u hu
  · have e : envDrives env u = false := by
      simp only [envDrives, List.any_eq_false, Bool.and_eq_true, decide_eq_true_eq, not_and, not_lt]
      intro p hp _
      have := h1 p hp
      omega
    have d : drvAt log u = false := by
      cases log with
      | nil => rfl
      | cons p log =>
        have hp := h2 p List.mem_cons_self
        rw [drvAt] at h3 ⊢
        rw [if_pos hp] at h3
        rw [if_pos (by omega)]
        exact h3
    simp [e, d]

/-- The state that a step answers. -/
def after (o : Host.Outcome State Fault Refusal) : State :=
  match o with
  | .next s => s
  | .fault _ => State.reset
  | .refused _ => State.reset

/-- The reset state is safe under any accepted configuration, on any bus, with any TXF in canonical form, and with a
number of frames in the queue. -/
theorem fresh_safe (c : Config) (env : List (Nat × Nat)) (f : Frame) (q : Byte) (p : Bool) (hc : c.wf = true)
    (hf : f.pay.wf = true) (hq : (q - 0#8).toNat ≤ c.queueCap) :
    Safe { onBus env with cfg := c, txf := f, qw := q, respPending := p } :=
  ⟨hc,
    { drvReleased := rfl, seqAtRest := rfl, queueBounded := hq, latchMasked := fun h => Bool.noConfusion h,
      durWidth := Nat.two_pow_pos _, rxfLength := fun h => Bool.noConfusion h, rxfMemory := rfl, txfMemory := hf,
      wfrMemory := rfl, slotsCanonical := rfl, slotMemories := fun _ h => absurd h List.not_mem_nil, resultShaped := rfl,
      logPast := fun _ h => absurd h List.not_mem_nil, logAgrees := rfl, timerStarted := Nat.le_refl _ }⟩

theorem reset_safe : Safe State.reset :=
  fresh_safe refConfig [] Frame.zero 0#8 false test_ref_is_well_formed rfl (by decide)

theorem tiny_safe (env : List (Nat × Nat)) (f : Frame) (h : f.pay.wf = true) : Safe { tinyBus env with txf := f } :=
  fresh_safe tiny env f 0#8 false test_tiny_is_well_formed h (by decide)

theorem tinyBus_safe (env : List (Nat × Nat)) : Safe (tinyBus env) := tiny_safe env Frame.zero rfl

/-- Frames of the witnesses: with 1 and with 32 bytes, for this device and for another one. -/
def broadcast1 : Frame := frame false 0x190#12 0x1FF#12 [0x5A#8]
def broadcast32 : Frame := frame false 0x190#12 0x1FF#12 (List.replicate 32 0xA5#8)
def unicastToMe : Frame := frame true 0x190#12 0x360#12 [0xA0#8]
def unicastToOther : Frame := frame true 0x360#12 0x190#12 [0xA1#8]

/-- The slots of `unicastToOther` stretched by another agent, the start bit beginning at tick 4: symbols 28, 34, 44 and
54 begin at 118, 142, 182 and 222. -/
def acks : List (Nat × Nat) := [(118, 3), (142, 3), (182, 3), (222, 3)]

theorem witness_StepRunsTheDecodedOperation :
    ∃ s : State, s.cfg.wf = true ∧ (∀ t ∈ s.arrivals, s.now < t) ∧ s.inputs = .op ⟨0x17#5, 1#12, 0x360#12⟩ :: [.tick] :=
  ⟨{ State.reset with arrivals := [5], inputs := .op ⟨0x17#5, 1#12, 0x360#12⟩ :: [.tick] }, by decide +kernel, by decide,
    rfl⟩

theorem witness_ArrivalsAreServedBetweenOperations :
    (∃ s r : State, s.cfg.wf = true ∧ s.masked = false ∧ ∃ pre t post, s.arrivals = pre ++ t :: post ∧
      (∀ u ∈ pre, s.now < u) ∧ t ≤ s.now ∧ r = { s with arrivals := pre ++ post }) ∧
    ∃ s r : State, s.cfg.wf = true ∧ s.masked = true ∧ (∀ t ∈ s.arrivals, s.now < t) ∧
      ∃ rest, s.inputs = .tick :: rest ∧ r = { s with inputs := rest } :=
  ⟨⟨{ State.reset with arrivals := [7, 0] }, _, by decide +kernel, rfl, [7], 0, [], rfl, by decide, by decide, rfl⟩,
    ⟨{ State.reset with inputs := [.tick], masked := true }, _, by decide +kernel, rfl, by decide, [], rfl, rfl⟩⟩

/-- An empty port; a stretch whose first arrival comes at its end; one whose first arrival comes at its last tick. -/
theorem witness_IdlingKeepsTheState :
    (∃ s : State, s.cfg.wf = true ∧ (∀ t ∈ s.arrivals, s.now < t) ∧ s.inputs = []) ∧
    (∃ s : State, s.cfg.wf = true ∧ (∀ t ∈ s.arrivals, s.now < t) ∧ s.inputs = .idle 9 :: [] ∧
      ∀ t ∈ s.arrivals, s.now + 9 ≤ t) ∧
    ∃ s : State, s.cfg.wf = true ∧ (∀ t ∈ s.arrivals, s.now < t) ∧ s.inputs = .idle 9 :: [] ∧ 8 ∈ s.arrivals ∧
      (∀ t ∈ s.arrivals, 8 ≤ t) ∧ 8 < s.now + 9 :=
  ⟨⟨State.reset, by decide +kernel, by decide, rfl⟩,
    ⟨{ State.reset with inputs := [.idle 9], arrivals := [9] }, by decide +kernel, by decide, rfl, by decide⟩,
    ⟨{ State.reset with inputs := [.idle 9], arrivals := [12, 8] }, by decide +kernel, by decide, rfl, by decide, by decide,
      by decide⟩⟩

theorem witness_IllFormedConfigurationsAreRefused : ∃ s : State, ¬ MeetsR8 s.cfg :=
  ⟨{ State.reset with cfg.t1Driven := 0 }, fun h => absurd h.dataPulses.1 (by decide)⟩

theorem witness_ResetStateHasTheResetValues : ∃ s : State, s = State.reset := ⟨_, rfl⟩

theorem witness_EveryInstructionKeepsTheStateSafe : ∃ i s t, Safe s ∧ exec i s = .next t :=
  ⟨.txBit true, State.reset, _, reset_safe, rfl⟩

theorem witness_EveryStepKeepsTheStateSafe : ∃ s, Safe s := ⟨State.reset, reset_safe⟩

theorem witness_DecodeInvertsEncode : ∃ (i j k : Instr) (n : Nat), i.wf n = true ∧ j.wf n = true ∧ k.wf n = true :=
  ⟨.txField 12#4 0xFFF#12, .frameHeadUnicast 0x360#12 0x190#12 0xF#4 32#8, .respond 4#8, 4, by decide, by decide, by decide⟩

theorem witness_IllegalLengthsAreRejectedOnTheWire :
    ∃ a b : BitVec 8, (a.toNat = 0 ∨ 32 < a.toNat) ∧ 32 < b.toNat := ⟨0#8, 33#8, by decide, by decide⟩

theorem witness_FrameHasItsSymbolsAndDuration :
    ∃ f g : Frame, 1 ≤ f.length.toNat ∧ f.length.toNat ≤ 32 ∧ 1 ≤ g.length.toNat ∧ g.length.toNat ≤ 32 :=
  ⟨broadcast1, broadcast32, by decide, by decide, by decide, by decide⟩

theorem witness_TransmittedBitIsOnePulse :
    ∃ (s : State) (v : Bool) (d : Nat) (t : State), s.cfg.wf = true ∧ d = (if v then s.cfg.t1Driven else s.cfg.t0Driven) ∧
      t = { s with drv := false, drvLog := (s.now + d, false) :: (s.now, true) :: s.drvLog, now := s.now + s.cfg.tBit,
                   result := ResultReg.okay } :=
  ⟨State.reset, true, _, _, by decide +kernel, rfl, rfl⟩

theorem witness_TransmittedStartBitIsOneLongPulse :
    ∃ s t : State, t = { s with drv := false, drvLog := (s.now + s.cfg.tStartDriven, false) :: (s.now, true) :: s.drvLog,
                                now := s.now + s.cfg.tStartDriven + s.cfg.tStartFloat, result := ResultReg.okay } :=
  ⟨State.reset, _, rfl⟩

theorem witness_TransmittedFieldIsItsBitsAndParity :
    ∃ (s : State) (n m : BitVec 4), s.cfg.wf = true ∧ 1 ≤ n.toNat ∧ n.toNat ≤ 12 ∧ 1 ≤ m.toNat ∧ m.toNat ≤ 12 :=
  ⟨State.reset, 1#4, 12#4, by decide +kernel, by decide⟩

/-- The clauses of RX_BIT: the shortest and the longest bit, at the first and at the last tick; silence; a stuck line; the
shortest and the longest pulse that is too long. -/
theorem witness_ReceivedBitIsTheClassOfItsPulse :
    tiny.wf = true ∧ (∀ env, (tinyBus env).drv = false) ∧
    (PulseAt [(0, 1)] 0 0 1 ∧ 0 < tiny.rxTimeout ∧ 1 ≤ tiny.tMaxBit) ∧
    (PulseAt [(7, 4)] 0 7 4 ∧ 7 < tiny.rxTimeout ∧ 4 ≤ tiny.tMaxBit) ∧
    QuietFrom [] 0 (0 + tiny.rxTimeout) ∧
    (7 < tiny.rxTimeout ∧ QuietFrom [(7, 99)] 0 (0 + 7) ∧ DrivenFrom [(7, 99)] (0 + 7) (0 + 7 + tiny.rxTimeout)) ∧
    (PulseAt [(3, 5)] 0 3 5 ∧ tiny.tMaxBit < 5 ∧ 5 < tiny.rxTimeout) ∧ (PulseAt [(0, 7)] 0 0 7 ∧ 7 < tiny.rxTimeout) :=
  ⟨by decide +kernel, fun _ => rfl, ⟨pulse_of (by decide) (by decide) (by decide), by decide, by decide⟩,
    ⟨pulse_of (by decide) (by decide) (by decide), by decide, by decide⟩, quiet_of (by decide),
    ⟨by decide, quiet_of (by decide), driven_of (by decide)⟩,
    ⟨pulse_of (by decide) (by decide) (by decide), by decide, by decide⟩,
    ⟨pulse_of (by decide) (by decide) (by decide), by decide⟩⟩

/-- A field of two bits, whole and cut short after its second bit. -/
theorem witness_ReceivedFieldIsItsBits :
    ∃ (s : State) (n m : BitVec 4) (ps : List (Nat × Nat)) (e : State), s.cfg.wf = true ∧ s.drv = false ∧
      1 ≤ n.toNat ∧ n.toNat ≤ 12 ∧ 1 ≤ m.toNat ∧ m.toNat ≤ 12 ∧ PulseTrain s.env s.now ps ∧
      (∀ p ∈ ps, p.1 < s.cfg.rxTimeout ∧ 1 ≤ p.2 ∧ p.2 ≤ s.cfg.tMaxBit) ∧ ps.length = n.toNat ∧ ps.length < m.toNat ∧
      exec .rxBit { s with now := s.now + trainTicks ps } = .next e ∧ e.result = raised .desync :=
  ⟨tinyBus [(0, 1), (8, 4)], 2#4, 3#4, [(0, 1), (7, 4)], _, by decide +kernel, rfl, by decide, by decide, by decide,
    by decide,
    ⟨pulse_of (by decide) (by decide) (by decide), pulse_of (by decide) (by decide) (by decide), trivial⟩, by decide,
    rfl, by decide, rfl, by decide +kernel⟩

/-- The clauses of RX_START: both ends of the tolerance, the longest pulse below it, a line still driven, silence. -/
theorem witness_ReceivedStartBitIsWithinTolerance :
    tiny.wf = true ∧ (PulseAt [(7, 5)] 0 7 5 ∧ 7 < tiny.rxTimeout ∧ tiny.tStartMin = 5) ∧
    (PulseAt [(0, 6)] 0 0 6 ∧ tiny.tStartMax = 6) ∧ (PulseAt [(0, 4)] 0 0 4 ∧ 4 < tiny.tStartMin) ∧
    (QuietFrom [(2, 7)] 0 (0 + 2) ∧ DrivenFrom [(2, 7)] (0 + 2) (0 + 2 + (tiny.tStartMax + 1)) ∧ 2 < tiny.rxTimeout) ∧
    QuietFrom [(8, 1)] 0 (0 + tiny.rxTimeout) :=
  ⟨by decide +kernel, ⟨pulse_of (by decide) (by decide) (by decide), by decide, rfl⟩,
    ⟨pulse_of (by decide) (by decide) (by decide), rfl⟩, ⟨pulse_of (by decide) (by decide) (by decide), by decide⟩,
    ⟨quiet_of (by decide), driven_of (by decide), by decide⟩, quiet_of (by decide)⟩

/-- The shortest slot, one just short of the timeout, and a stuck line. -/
theorem witness_AckReadMeasuresTheSlot :
    tiny.wf = true ∧
    (tiny.t1Driven ≤ 1 ∧ DrivenFrom [] (0 + tiny.t1Driven) (0 + 1) ∧ 1 < tiny.rxTimeout ∧ envDrives [] (0 + 1) = false) ∧
    (DrivenFrom [(0, 7)] (0 + tiny.t1Driven) (0 + 7) ∧ 7 < tiny.rxTimeout ∧ envDrives [(0, 7)] (0 + 7) = false) ∧
    (DrivenFrom [(0, 8)] (0 + tiny.t1Driven) (0 + 8) ∧ 8 = tiny.rxTimeout) :=
  ⟨by decide +kernel, ⟨by decide, driven_of (by decide), by decide, by decide⟩,
    ⟨driven_of (by decide), by decide, by decide⟩, ⟨driven_of (by decide), by decide⟩⟩

/-- An edge at the last tick; a slot released at once and at the last tick; a stuck line; no edge. -/
theorem witness_AckSendStretchesTheSlot :
    tiny.wf = true ∧
    (7 < tiny.rxTimeout ∧ QuietFrom [(7, 1)] 0 (0 + 7) ∧ envDrives [(7, 1)] (0 + 7) = true ∧ tiny.t0Driven = 3 ∧
      DrivenFrom [(7, 1)] 10 (10 + 0) ∧ envDrives [(7, 1)] (10 + 0) = false) ∧
    (QuietFrom [(0, 10)] 0 (0 + 0) ∧ envDrives [(0, 10)] (0 + 0) = true ∧ DrivenFrom [(0, 10)] 3 (3 + 7) ∧
      envDrives [(0, 10)] (3 + 7) = false) ∧
    (envDrives [(0, 11)] (0 + 0) = true ∧ DrivenFrom [(0, 11)] 3 (3 + tiny.rxTimeout)) ∧
    QuietFrom [] 0 (0 + tiny.rxTimeout) :=
  ⟨by decide +kernel, ⟨by decide, quiet_of (by decide), by decide, rfl, driven_of (by decide), by decide⟩,
    ⟨quiet_of (by decide), by decide, driven_of (by decide), by decide⟩, ⟨by decide, driven_of (by decide)⟩,
    quiet_of (by decide)⟩

/-- The sender at tick 3, the receiver waiting from tick 0 with another `MY_ADDR`. -/
theorem witness_PulsesRoundTripBetweenTwoBlocks :
    ∃ s r : State, s.cfg.wf = true ∧ r.cfg = { s.cfg with myAddr := r.cfg.myAddr } ∧ r.drv = false ∧ r.now ≤ s.now ∧
      s.now < r.now + r.cfg.rxTimeout ∧
      (∃ t, exec (.txBit false) s = .next t ∧
        ∀ u, r.now ≤ u → u < t.now → envDrives r.env u = (decide (s.now ≤ u) && drvAt t.drvLog u)) ∧
      ∃ r' t : State, r'.cfg = r.cfg ∧ r'.now = r.now ∧ r'.drv = false ∧ exec .txStart s = .next t ∧
        ∀ u, r'.now ≤ u → u < t.now → envDrives r'.env u = (decide (s.now ≤ u) && drvAt t.drvLog u) :=
  ⟨{ tinyBus [] with now := 3 }, { tinyBus [(3, 3)] with cfg.myAddr := 0x190#12 }, by decide +kernel, rfl, rfl, by decide,
    by decide, ⟨_, rfl, fun u _ _ => hears_spec (stop := 20) (by decide +kernel) u⟩,
    { tinyBus [(3, 5)] with cfg.myAddr := 0x190#12 }, _, rfl, rfl, rfl, rfl,
    fun u _ _ => hears_spec (stop := 20) (by decide +kernel) u⟩

/-- The field 101 with its parity bit 0, sent at tick 3. -/
theorem witness_SenderAndReceiverAgreeOnParity :
    ∃ (s r : State) (n : BitVec 4) (v : BitVec 12) (t : State), s.cfg.wf = true ∧
      r.cfg = { s.cfg with myAddr := r.cfg.myAddr } ∧ r.drv = false ∧ r.par = false ∧ r.now ≤ s.now ∧
      s.now < r.now + r.cfg.rxTimeout ∧ 1 ≤ n.toNat ∧ n.toNat ≤ 12 ∧ v.toNat < 2 ^ n.toNat ∧
      exec (.txField n v) s = .next t ∧
      ∀ u, r.now ≤ u → u < t.now → envDrives r.env u = (decide (s.now ≤ u) && drvAt t.drvLog u) :=
  ⟨{ tinyBus [] with now := 3 }, { tinyBus [(3, 1), (7, 3), (11, 1), (15, 3)] with cfg.myAddr := 0x190#12 }, 3#4, 5#12, _,
    by decide +kernel, rfl, rfl, rfl, by decide, by decide, by decide, by decide, by decide, rfl,
    fun u _ _ => hears_spec (stop := 20) (by decide +kernel) u⟩

theorem witness_MaskAndUnmaskSaveAndRestore :
    ∃ (s : State) (p q : Bool), p = true ∧ q = false ∧ s.tickLatch = true :=
  ⟨{ State.reset with tickLatch := true }, true, false, rfl, rfl, rfl⟩

/-- Free for exactly `T_BIT` ticks; busy at the first and at the last sample. -/
theorem witness_BusFreeNeedsOneIdleBitPeriod :
    (∃ s : State, s.drv = false ∧ QuietFrom s.env s.now (s.now + s.cfg.tBit)) ∧
    (∃ (s : State) (e : Nat), s.drv = false ∧ e < s.cfg.tBit ∧ QuietFrom s.env s.now (s.now + e) ∧
      envDrives s.env (s.now + e) = true ∧ e = 0) ∧
    ∃ (s : State) (e : Nat), s.drv = false ∧ e < s.cfg.tBit ∧ QuietFrom s.env s.now (s.now + e) ∧
      envDrives s.env (s.now + e) = true ∧ e = 38 :=
  ⟨⟨onBus [(39, 1)], rfl, quiet_of (by decide)⟩, ⟨onBus [(0, 1)], 0, rfl, by decide, quiet_of (by decide), by decide, rfl⟩,
    ⟨onBus [(38, 1)], 38, rfl, by decide, quiet_of (by decide), by decide, rfl⟩⟩

/-- A nominal slot, and one that is held for T_0_DRIVEN ticks. -/
def shortSlot (_ : Nat) : Nat × Nat := (1, 4)
def stretchedSlot (_ : Nat) : Nat × Nat := (3, 4)

/-- What a receiver hears of a frame, under the short timing. -/
def heard (f : Frame) (slot : Nat → Nat × Nat) : List (Nat × Nat) :=
  heardPulses tiny (slotNumbers f.unicast f.length.toNat) slot (frameSymbols tiny f)

/-- At the first tick of a broadcast frame; at the last driven tick of an acknowledged unicast frame, whose last symbol,
number 54, is a slot that begins at `6 + 4·53 = 218` and is driven for 3 ticks. -/
theorem witness_BusFreeNeverPassesInsideAFrame :
    (∃ (s : State) (t0 : Nat) (f : Frame) (p : Nat × Nat), s.cfg.wf = true ∧ s.drv = false ∧ f.unicast = false ∧
      (heard f shortSlot).getLast? = some p ∧ t0 = s.now ∧
      s.now < pulseStart t0 (heard f shortSlot) ((heard f shortSlot).length - 1) + p.1 ∧
      ∀ u, s.now ≤ u → u < s.now + s.cfg.tBit →
        u < pulseStart t0 (heard f shortSlot) ((heard f shortSlot).length - 1) + p.1 →
        envDrives s.env u = envDrives (pulseWave t0 (heard f shortSlot)) u) ∧
    ∃ (s : State) (t0 : Nat) (f : Frame), s.cfg.wf = true ∧ s.drv = false ∧ f.unicast = true ∧
      (∀ k ∈ slotNumbers f.unicast f.length.toNat, 1 ≤ (stretchedSlot k).1 ∧
        (stretchedSlot k).2 < (stretchedSlot k).1 + s.cfg.tBit) ∧
      (heard f stretchedSlot).getLast? = some (3, 4) ∧ t0 ≤ s.now ∧
      s.now + 1 = pulseStart t0 (heard f stretchedSlot) ((heard f stretchedSlot).length - 1) + 3 ∧
      ∀ u, s.now ≤ u → u < s.now + s.cfg.tBit →
        u < pulseStart t0 (heard f stretchedSlot) ((heard f stretchedSlot).length - 1) + 3 →
        envDrives s.env u = envDrives (pulseWave t0 (heard f stretchedSlot)) u :=
  ⟨⟨tinyBus (pulseWave 0 (heard broadcast1 shortSlot)), 0, broadcast1, (3, 4), by decide +kernel, rfl, rfl,
      by decide +kernel, rfl, by decide +kernel, fun _ _ _ _ => rfl⟩,
    ⟨{ tinyBus (pulseWave 0 (heard unicastToOther stretchedSlot)) with now := 220 }, 0, unicastToOther,
      by decide +kernel, rfl, rfl, by decide +kernel, by decide +kernel, by decide, by decide +kernel, fun _ _ _ _ => rfl⟩⟩

theorem witness_SendFrameRefusesBadLengthAndBusyBus :
    (∃ s : State, s.txf.length.toNat = 0) ∧ (∃ s : State, s.txf.length.toNat = 33) ∧
    ∃ (s : State) (e : Nat), 1 ≤ s.txf.length.toNat ∧ s.txf.length.toNat ≤ 32 ∧ s.drv = false ∧ e < s.cfg.tBit ∧
      QuietFrom s.env s.now (s.now + e) ∧ envDrives s.env (s.now + e) = true :=
  ⟨⟨State.reset, rfl⟩, ⟨{ State.reset with txf.length := 33#6 }, by decide⟩,
    ⟨{ onBus [(38, 1)] with txf := broadcast32 }, 38, by decide, by decide, rfl, by decide, quiet_of (by decide),
      by decide⟩⟩

theorem witness_BroadcastFrameIsSentWhole :
    ∀ f ∈ [broadcast1, broadcast32], ∃ s : State, s.txf = f ∧ Safe s ∧ 1 ≤ s.txf.length.toNat ∧ s.txf.length.toNat ≤ 32 ∧
      s.txf.unicast = false ∧ QuietFrom s.env s.now (s.now + s.cfg.tBit) := by
  intro f hf
  refine ⟨{ tinyBus [(4, 9)] with txf := f }, rfl, tiny_safe _ f ?_, ?_, ?_, ?_,
    show QuietFrom [(4, 9)] 0 (0 + 4) from quiet_of (by decide)⟩ <;>
    · revert f
      decide +kernel

/-- Slots that are held no longer than the bit period. -/
theorem held_acks {env : List (Nat × Nat)} {slots : List Place}
    (h : ∀ k ∈ slots.map Prod.fst, ∀ j, (j < 2 → envDrives env (symbolTime tiny 4 k + 1 + j) = true) ∧
      envDrives env (symbolTime tiny 4 k + 3) = false) : SlotsHeld tiny env 4 slots (fun _ => 0) := by
  refine ⟨fun p hp => ⟨3, ⟨by decide, by decide, ?_, ?_⟩, rfl⟩, fun _ _ => rfl⟩
  all_goals
    have h0 : heldTime tiny (fun _ => 0) 4 p.1 = symbolTime tiny 4 p.1 := by simp [heldTime]
    have hk : p.1 ∈ slots.map Prod.fst := List.mem_map_of_mem hp
    rw [h0]
  · refine driven_of fun j hj => (h _ hk j).1 ?_
    have : tiny.t1Driven = 1 := rfl
    omega
  · exact (h _ hk 0).2

/-- Each slot held for two ticks beyond the bit period: they begin at 120, 146, 188 and 230. -/
def lateAcks : List (Nat × Nat) := [(120, 6), (146, 6), (188, 6), (230, 6)]

/-- The delays that `lateAcks` causes in the slots of a frame. -/
def lateIn (slots : List Place) (k : Nat) : Nat := if k ∈ slots.map Prod.fst then 2 else 0

theorem late_acks : ∀ slots ∈ [ackSlots 1, headAckSlots], SlotsHeld slack lateAcks 4 slots (lateIn slots) := by
  intro slots hs
  refine ⟨fun p hp => ⟨6, ⟨by decide, by decide, driven_of ?_, ?_⟩, ?_⟩,
    fun k hk => if_neg fun hm => ?_⟩
  · revert p; revert slots; decide +kernel
  · revert p; revert slots; decide +kernel
  · revert p; revert slots; decide +kernel
  · obtain ⟨p, hp, rfl⟩ := List.mem_map.mp hm
    exact hk p hp rfl

/-- Slots released within the bit period, and slots held for `T_MAXBIT` ticks. -/
theorem witness_AcknowledgedUnicastFrameIsSentWhole :
    (∃ s : State, Safe s ∧ 1 ≤ s.txf.length.toNat ∧ s.txf.length.toNat ≤ 32 ∧ s.txf.unicast = true ∧
      QuietFrom s.env s.now (s.now + s.cfg.tBit) ∧
      SlotsHeld s.cfg s.env (s.now + s.cfg.tBit) (ackSlots s.txf.length.toNat) (fun _ => 0)) ∧
    ∃ (s : State) (late : Nat → Nat), Safe s ∧ 1 ≤ s.txf.length.toNat ∧ s.txf.length.toNat ≤ 32 ∧ s.txf.unicast = true ∧
      QuietFrom s.env s.now (s.now + s.cfg.tBit) ∧
      SlotsHeld s.cfg s.env (s.now + s.cfg.tBit) (ackSlots s.txf.length.toNat) late ∧ late 54 = 2 :=
  ⟨⟨{ tinyBus acks with txf := unicastToOther }, tiny_safe _ _ (by decide), by decide, by decide, rfl,
      quiet_of (by decide), held_acks (by
        intro k hk j
        refine ⟨fun hj => ?_, ?_⟩
        · revert j; revert k; decide
        · revert k; decide)⟩,
    ⟨{ onBus lateAcks with cfg := slack, txf := unicastToOther }, _,
      fresh_safe slack lateAcks unicastToOther 0#8 false test_slack_is_well_formed (by decide) (by decide), by decide,
      by decide, rfl, quiet_of (by decide), late_acks _ (by decide), rfl⟩⟩

/-- Nobody answers; only the last slot is left short; the first slot is held too long, and never released. -/
theorem witness_UnicastSendStopsAtTheFirstMissingAck :
    (∃ s : State, ∃ post k f i, Safe s ∧ 1 ≤ s.txf.length.toNat ∧ s.txf.length.toNat ≤ 32 ∧ s.txf.unicast = true ∧
      QuietFrom s.env s.now (s.now + s.cfg.tBit) ∧ ackSlots s.txf.length.toNat = [] ++ (k, f, i) :: post ∧
      SlotsHeld s.cfg s.env (s.now + s.cfg.tBit) [] (fun _ => 0) ∧
      UnackedFor s.cfg s.env (heldTime s.cfg (fun _ => 0) (s.now + s.cfg.tBit) k) 1) ∧
    (∃ s : State, ∃ pre k f i, Safe s ∧ 1 ≤ s.txf.length.toNat ∧ s.txf.length.toNat ≤ 32 ∧ s.txf.unicast = true ∧
      QuietFrom s.env s.now (s.now + s.cfg.tBit) ∧ ackSlots s.txf.length.toNat = pre ++ (k, f, i) :: [] ∧
      SlotsHeld s.cfg s.env (s.now + s.cfg.tBit) pre (fun _ => 0) ∧
      UnackedFor s.cfg s.env (heldTime s.cfg (fun _ => 0) (s.now + s.cfg.tBit) k) 1) ∧
    UnackedFor tiny [(118, 5)] (heldTime tiny (fun _ => 0) 4 28) 5 ∧
    UnackedFor tiny [(118, 8)] (heldTime tiny (fun _ => 0) 4 28) tiny.rxTimeout := by
  refine ⟨⟨{ tinyBus [] with txf := unicastToOther }, _, 28, .addrAck, 0#6, tiny_safe _ _ (by decide), by decide, by decide,
      rfl, quiet_of (by decide), rfl, ⟨fun _ h => absurd h List.not_mem_nil, fun _ _ => rfl⟩,
      by decide, .inl (by decide), driven_of (by decide), .inl (by decide +kernel)⟩,
    ⟨{ tinyBus (acks.take 3) with txf := unicastToOther }, headAckSlots, 54, .dataAck, 0#6, tiny_safe _ _ (by decide),
      by decide, by decide, rfl, quiet_of (by decide), rfl, held_acks ?_, by decide, .inl (by decide),
      driven_of (by decide), .inl (by decide +kernel)⟩,
    ⟨by decide, .inr (by decide), driven_of (by decide +kernel), .inl (by decide +kernel)⟩,
    ⟨by decide, .inr (by decide), driven_of (by decide +kernel), .inr rfl⟩⟩
  intro k hk j
  refine ⟨fun hj => ?_, ?_⟩
  · revert j; revert k; decide
  · revert k; decide

/-- Slots of a frame for this device: the sender's pulse alone, and one that is held to the last tick at which the core
still finds it released, with the longest pause; those of a frame for another device: a pulse of one tick, and one of
`T_MAXBIT` with the longest pause. -/
def readSlot (mine : Bool) (k : Nat) : Nat × Nat :=
  if k = 28 then (1, 4) else if mine then (10, 17) else (4, 11)

/-- The pulses of some symbols of a frame, under the short timing. -/
def readPulses (w : SentFrame) (syms : List Symbol) : List (Nat × Nat) :=
  heardPulses tiny w.slots (readSlot (w.receiver = 0x360#12)) syms

/-- What makes a read that is entered at tick 0 hear the first pulses of a frame. -/
theorem heard_of {w : SentFrame} {t0 k : Nat} {syms : List Symbol} {ps env : List (Nat × Nat)} (hf : w.Fits tiny syms ps)
    (hs : ps.head? = some (5, 6)) (ht : t0 < 8)
    (hl : ∀ u, u < w.pulseEnd tiny t0 ps k + 1 → envDrives env u = envDrives (pulseWave t0 ps) u) :
    w.Heard (tinyBus env) syms t0 ps k where
  fits := hf
  start p hp := by
    rw [hs] at hp
    cases hp
    exact ⟨by show t0 < 0 + 8; omega, by show max 0 t0 + 5 ≤ t0 + 5; omega, by show t0 + 5 ≤ max 0 t0 + 6; omega⟩
  line u _ hu _ := hl u (Nat.lt_succ_of_le hu)

/-- A bus on which something drives again long after the pulses. -/
def laterEnv (t0 : Nat) (ps : List (Nat × Nat)) : List (Nat × Nat) := pulseWave t0 ps ++ [(9000, 5)]

theorem laterEnv_before (t0 : Nat) (ps : List (Nat × Nat)) {n : Nat} (h : n < 9000) :
    ∀ u, u < n + 1 → envDrives (laterEnv t0 ps) u = envDrives (pulseWave t0 ps) u := by
  intro u hu
  have : u < 9000 := by omega
  simp [laterEnv, envDrives, this]

/-- The last tick at which a start bit may begin; a frame for this device, one for another whose slots are held, a
broadcast; and a start bit of which just enough is left, and one that is just long enough. -/
theorem witness_FrameWithinToleranceIsReadWhole :
    (∀ f ∈ [unicastToMe, unicastToOther, broadcast1, broadcast32],
      ∃ (s : State) (t0 : Nat) (ps : List (Nat × Nat)), Safe s ∧ 1 ≤ f.length.toNat ∧ f.length.toNat ≤ 32 ∧ t0 = 7 ∧
        f.sent.Heard s (frameSymbols s.cfg f) t0 ps (ps.length - 1)) ∧
    FindsStart refConfig 18 0 168 ∧ ¬ FindsStart refConfig 19 0 168 ∧ FindsStart refConfig 3 89 190 := by
  refine ⟨fun f hf => ?_, by unfold FindsStart; decide, by unfold FindsStart; decide, by unfold FindsStart; decide⟩
  have h : 1 ≤ f.length.toNat ∧ f.length.toNat ≤ 32 ∧
      f.sent.Fits tiny (frameSymbols tiny f) (readPulses f.sent (frameSymbols tiny f)) ∧
      (readPulses f.sent (frameSymbols tiny f)).head? = some (5, 6) ∧
      f.sent.pulseEnd tiny 7 (readPulses f.sent (frameSymbols tiny f))
        ((readPulses f.sent (frameSymbols tiny f)).length - 1) < 9000 := by
    revert f
    decide +kernel
  exact ⟨tinyBus (laterEnv 7 _), 7, _, tinyBus_safe _, h.1, h.2.1, rfl,
    heard_of h.2.2.1 h.2.2.2.1 (by decide) (laterEnv_before 7 _ h.2.2.2.2)⟩

/-- A frame whose length field announces more bytes than the one that follows, and one with an illegal length. -/
def longHead (rcv : Addr) : SentFrame :=
  { unicast := true, sender := 0x190#12, receiver := rcv, control := 0xF#4, length := 32#8, data := [0xA0#8] }
def badHead (unicast : Bool) (rcv : Addr) (len : Byte) : SentFrame :=
  { unicast := unicast, sender := 0x190#12, receiver := rcv, control := 0xF#4, length := len, data := [] }

/-- The bus that has the first j pulses of a frame, one tick of pause after the last of them, and a pulse of d ticks. -/
def cutEnv (w : SentFrame) (j d : Nat) : List (Nat × Nat) :=
  let ps := readPulses w (w.symbols tiny)
  pulseWave 0 (ps.take j) ++ [(w.pulseEnd tiny 0 ps (j - 1) + 1, d), (9000, 5)]

/-- What a read hears of a frame that is cut short, checked tick by tick. -/
def cutHeard (w : SentFrame) (j d : Nat) : Bool :=
  let ps := readPulses w (w.symbols tiny)
  decide (w.Fits tiny (w.symbols tiny) ps) && decide (ps.head? = some (5, 6)) &&
    (List.range (w.pulseEnd tiny 0 ps (j - 1) + 1)).all
      (fun u => envDrives (cutEnv w j d) u == envDrives (pulseWave 0 ps) u)

theorem cutHeard_spec {w : SentFrame} {j d : Nat} (h : cutHeard w j d = true) :
    w.Heard (tinyBus (cutEnv w j d)) (w.symbols tiny) 0 (readPulses w (w.symbols tiny)) (j - 1) := by
  simp only [cutHeard, Bool.and_eq_true, decide_eq_true_eq, List.all_eq_true, List.mem_range, beq_iff_eq] at h
  exact heard_of h.1.1 h.1.2 (by decide) h.2

/-- The premises of the last part of `ReadNeedsAStartBitAndEverySymbol` on the line after symbol j - 1. -/
def CutAt (s : State) (w : SentFrame) (t0 : Nat) (ps : List (Nat × Nat)) (j n : Nat) : Prop :=
  Safe s ∧ w.Announced ∧ (lengthLegal w.length.toNat = true ∨ j < 44) ∧ 1 ≤ j ∧
    ((symbolPlaces w.unicast w.data.length)[j]?).isSome = true ∧
    w.Heard s (w.symbols s.cfg) t0 ps (j - 1) ∧ n = w.pulseEnd s.cfg t0 ps (j - 1)

theorem cutAt_of {w : SentFrame} {j d : Nat} (ha : w.Announced) (hj : lengthLegal w.length.toNat = true ∨ j < 44)
    (h1 : 1 ≤ j) (hp : ((symbolPlaces w.unicast w.data.length)[j]?).isSome = true) (h : cutHeard w j d = true) :
    CutAt (tinyBus (cutEnv w j d)) w 0 (readPulses w (w.symbols tiny)) j
      (w.pulseEnd tiny 0 (readPulses w (w.symbols tiny)) (j - 1)) :=
  ⟨tinyBus_safe _, ha, hj, h1, hp, cutHeard_spec h, rfl⟩

/-- No start bit, a short one and a long one; then a frame for another device cut short after an ack slot, one with an
illegal length whose length parity is one tick too long, one whose pulse is never over, and one for this device in whose
last slot the line is not released: `cutEnv` has the pulse one tick after the one before it. -/
theorem witness_ReadNeedsAStartBitAndEverySymbol :
    (tiny.wf = true ∧ (tinyBus []).drv = false ∧ QuietFrom (tinyBus []).env 0 (0 + tiny.rxTimeout) ∧
    (PulseAt [(7, 4)] 0 7 4 ∧ 7 < tiny.rxTimeout ∧ 4 < tiny.tStartMin) ∧
    (QuietFrom [(7, 7)] 0 (0 + 7) ∧ DrivenFrom [(7, 7)] (0 + 7) (0 + 7 + (tiny.tStartMax + 1)))) ∧
    (∃ s w ps n, CutAt s w 0 ps 45 n ∧ QuietFrom s.env n (n + s.cfg.rxTimeout)) ∧
    (∀ d ∈ [5, 8], ∃ s w ps n, CutAt s w 0 ps 43 n ∧ (w.answered s.cfg).contains 43 = false ∧ s.cfg.tMaxBit < d ∧
      d ≤ s.cfg.rxTimeout ∧ QuietFrom s.env n (n + 1) ∧ DrivenFrom s.env (n + 1) (n + 1 + d) ∧
      (d < s.cfg.rxTimeout → envDrives s.env (n + 1 + d) = false)) ∧
    ∃ s w ps n, CutAt s w 0 ps 54 n ∧ (w.answered s.cfg).contains 54 = true ∧ QuietFrom s.env n (n + 1) ∧
      envDrives s.env (n + 1) = true ∧
      DrivenFrom s.env (n + 1 + s.cfg.t0Driven) (n + 1 + s.cfg.t0Driven + s.cfg.rxTimeout) := by
  refine ⟨⟨by decide +kernel, rfl, quiet_of (by decide), ⟨pulse_of (by decide) (by decide) (by decide), by decide,
    by decide⟩, quiet_of (by decide), driven_of (by decide)⟩, ?_, fun d hd => ?_, ?_⟩
  · exact ⟨_, longHead 0x1D0#12, _, _, cutAt_of (d := 0) (by unfold SentFrame.Announced; decide) (.inl rfl) (by decide)
      (by decide +kernel) (by decide +kernel), quiet_of (by decide +kernel)⟩
  · refine ⟨_, badHead true 0x360#12 33#8, _, _, cutAt_of (d := d) (by unfold SentFrame.Announced; decide)
      (.inr (by decide)) (by decide) (by decide +kernel) ?_, ?_, ?_, ?_, quiet_of ?_, driven_of ?_, ?_⟩ <;>
    · revert d
      decide +kernel
  · exact ⟨_, longHead 0x360#12, _, _, cutAt_of (d := 11) (by unfold SentFrame.Announced; decide) (.inl rfl) (by decide)
      (by decide +kernel) (by decide +kernel), by decide +kernel, quiet_of (by decide +kernel), by decide +kernel,
      driven_of (by decide +kernel)⟩

/-- The first parity bit of a frame for this device, the last one of a broadcast frame, the first data byte of a longer
frame for another device whose slots are held, and the length fields with illegal lengths. -/
theorem witness_WrongParityBitEndsTheReadAtItsField :
    ∀ x ∈ [(unicastToMe.sent, 14, FieldPos.sender), (broadcast1.sent, 50, FieldPos.data),
        (longHead 0x1D0#12, 53, FieldPos.data), (badHead true 0x360#12 0#8, 43, FieldPos.length),
        (badHead false 0x360#12 33#8, 41, FieldPos.length)],
      ∃ (s : State) (t0 : Nat) (ps : List (Nat × Nat)) (i : BitVec 6), Safe s ∧ x.1.Announced ∧
        (x.2.1, x.2.2, i) ∈ parityBits x.1.unicast x.1.data.length ∧
        x.1.Heard s ((x.1.symbols s.cfg).modify x.2.1 flipSymbol) t0 ps x.2.1 := by
  intro x hx
  let syms := (x.1.symbols tiny).modify x.2.1 flipSymbol
  have h : (x.1.data.length ≤ if lengthLegal x.1.length.toNat then x.1.length.toNat else 0) ∧
      (x.2.1, x.2.2, 0#6) ∈ parityBits x.1.unicast x.1.data.length ∧ x.1.Fits tiny syms (readPulses x.1 syms) ∧
      (readPulses x.1 syms).head? = some (5, 6) ∧ x.1.pulseEnd tiny 0 (readPulses x.1 syms) x.2.1 < 9000 := by
    revert x
    decide +kernel
  exact ⟨tinyBus (laterEnv 0 _), 0, _, 0#6, tinyBus_safe _, h.1, h.2.1,
    heard_of h.2.2.1 h.2.2.2.1 (by decide) (laterEnv_before 0 _ h.2.2.2.2)⟩

theorem witness_IllegalLengthEndsTheReadBeforeTheData :
    ∀ w ∈ [badHead true 0x360#12 0#8, badHead true 0x190#12 33#8, badHead false 0x1FF#12 255#8],
      ∃ (s : State) (t0 : Nat) (ps : List (Nat × Nat)) (k : Nat), Safe s ∧
        (w.length.toNat = 0 ∨ 32 < w.length.toNat) ∧ k = (if w.unicast then 43 else 41) ∧
        w.Heard s (w.symbols s.cfg) t0 ps k := by
  intro w hw
  have h : (w.length.toNat = 0 ∨ 32 < w.length.toNat) ∧ w.Fits tiny (w.symbols tiny) (readPulses w (w.symbols tiny)) ∧
      (readPulses w (w.symbols tiny)).head? = some (5, 6) ∧
      w.pulseEnd tiny 0 (readPulses w (w.symbols tiny)) (if w.unicast then 43 else 41) < 9000 := by
    revert w
    decide +kernel
  exact ⟨tinyBus (laterEnv 0 _), 0, _, _, tinyBus_safe _, h.1, rfl,
    heard_of h.2.1 h.2.2.1 (by decide) (laterEnv_before 0 _ h.2.2.2)⟩

theorem broadcast_is_read :
    (readFrame (tinyBus (waveOf tiny 0 (frameSymbols tiny broadcast1)))).result.code = .ok := by decide +kernel

theorem witness_FailedReadSurfacesNoFrame :
    (∃ s t : State, exec .readFrame s = .next t ∧ t.result.code = .ok) ∧
    ∃ s t : State, exec .readFrame s = .next t ∧ t.result.code ≠ .ok :=
  ⟨⟨tinyBus (waveOf tiny 0 (frameSymbols tiny broadcast1)), _, rfl, broadcast_is_read⟩,
    ⟨tinyBus [], _, rfl, by decide +kernel⟩⟩

/-- An arrival inside a broadcast send, which the exit serves; an idle bus, on which a masked read fails; the lengths next
to the legal ones. -/
theorem witness_FrameOperationsRestoreBusAndMask :
    (∃ s t : State, 1 ≤ s.txf.length.toNat ∧ s.txf.length.toNat ≤ 32 ∧ exec .sendFrame s = .next t ∧ s.masked = false ∧
      (s.tickLatch || s.arrivals.any (fun a => decide (a < t.now))) = true) ∧
    (∃ s t : State, exec .readFrame s = .next t ∧ s.masked = true) ∧
    (∃ s : State, s.txf.length.toNat = 0) ∧ ∃ s : State, s.txf.length.toNat = 33 :=
  ⟨⟨{ tinyBus [] with txf := broadcast1, arrivals := [9] }, _, by decide, by decide, rfl, rfl, by decide +kernel⟩,
    ⟨{ tinyBus [] with masked := true }, _, rfl, rfl⟩, ⟨State.reset, rfl⟩,
    ⟨{ State.reset with txf.length := 33#6 }, by decide⟩⟩

/-- The two blocks of a round trip, both at tick 0, the start bit beginning at tick 4. -/
def sender (f : Frame) (env : List (Nat × Nat)) : State := { tinyBus env with txf := f }
def receiver (f : Frame) : State := { tinyBus (waveOf tiny 4 (frameSymbols tiny f)) with cfg.myAddr := 0x190#12 }

/-- A broadcast frame, and a unicast frame to the second block, which acknowledges it: each hears the other. -/
theorem witness_FramesRoundTripBetweenTwoBlocks :
    ∀ f env, (f, env) = (broadcast1, ([] : List (Nat × Nat))) ∨ (f, env) = (unicastToOther, acks) →
      ∃ s r t q : State, Safe s ∧ Safe r ∧ r.cfg = { s.cfg with myAddr := r.cfg.myAddr } ∧ s.txf = f ∧
      1 ≤ s.txf.length.toNat ∧ s.txf.length.toNat ≤ 32 ∧ (s.txf.unicast = false ∨ s.txf.receiver = r.cfg.myAddr) ∧
      r.now ≤ s.now + s.cfg.tBit ∧ s.now + s.cfg.tBit < r.now + s.cfg.rxTimeout ∧
      exec .sendFrame s = .next t ∧ exec .readFrame r = .next q ∧
      (∀ u, r.now ≤ u → u ≤ t.now → envDrives r.env u = (decide (s.now ≤ u) && drvAt t.drvLog u)) ∧
      ∀ u, s.now ≤ u → u ≤ t.now → envDrives s.env u = (decide (r.now ≤ u) && drvAt q.drvLog u) := by
  intro f env hx
  have hf : f.pay.wf = true ∧ 1 ≤ f.length.toNat ∧ f.length.toNat ≤ 32 ∧ (f.unicast = false ∨ f.receiver = 0x190#12) := by
    rcases hx with h | h <;> cases h <;> decide
  have ht : hears (receiver f).env (sendFrame (sender f env)).drvLog 0 240 = true := by
    rcases hx with h | h <;> cases h <;> decide +kernel
  have hq : hears (sender f env).env (readFrame (receiver f)).drvLog 0 240 = true := by
    rcases hx with h | h <;> cases h <;> decide +kernel
  exact ⟨sender f env, receiver f, _, _, tiny_safe _ _ hf.1,
    fresh_safe { tiny with myAddr := 0x190#12 } _ Frame.zero 0#8 false (by decide +kernel) rfl (by decide), rfl, rfl,
    hf.2.1, hf.2.2.1, hf.2.2.2, (by decide : 0 ≤ 0 + 4), (by decide : 0 + 4 < 0 + tiny.rxTimeout), rfl, rfl,
    fun u _ _ => hears_spec ht u, fun u _ _ => hears_spec hq u⟩

/-- Operations of each clause, on a silent bus. -/
theorem witness_EveryOperationEndsInBoundedTime :
    (∃ (s t : State), s.cfg.wf = true ∧ onWire (.txField 12#4 0#12) = false ∧ exec (.txField 12#4 0#12) s = .next t) ∧
    (∃ (s t : State), s.cfg.wf = true ∧ exec .ackRead s = .next t ∧ t.dur < s.cfg.tBit) ∧
    (∃ (s t : State), s.cfg.wf = true ∧ exec .sendFrame s = .next t ∧ s.txf.unicast = false ∧ 1 ≤ s.txf.length.toNat ∧
      s.txf.length.toNat ≤ 32 ∧ t.result.code ≠ .busy) ∧
    ∃ (s t : State), s.cfg.wf = true ∧ exec .readFrame s = .next t ∧ t.result.code = .ok :=
  ⟨⟨State.reset, _, by decide +kernel, rfl, rfl⟩, ⟨tinyBus [], _, by decide +kernel, rfl, by decide +kernel⟩,
    ⟨{ tinyBus [] with txf := broadcast1 }, _, by decide +kernel, rfl, rfl, by decide, by decide, by decide +kernel⟩,
    ⟨tinyBus (waveOf tiny 0 (frameSymbols tiny broadcast1)), _, test_tiny_is_well_formed, rfl, broadcast_is_read⟩⟩

/-- No valid frame; a valid frame that the second entry of REF is the first to match; a frame that nothing matches. -/
theorem witness_DispatchYieldsTheFirstMatch :
    (∃ s : State, s.rxf.valid = false) ∧
    (∃ (s : State) (e x : CmdEntry) (post : List CmdEntry), s.rxf.valid = true ∧ s.cfg.cmdTable = [x] ++ e :: post ∧
      (∀ y ∈ [x], ¬ Matches s.cfg s.rxf.frame y) ∧ Matches s.cfg s.rxf.frame e) ∧
    ∃ s : State, s.rxf.valid = true ∧ ∀ e ∈ s.cfg.cmdTable, ¬ Matches s.cfg s.rxf.frame e := by
  refine ⟨⟨State.reset, rfl⟩, ⟨{ State.reset with rxf := ⟨true, unicastToMe⟩ }, _, _, _, rfl, rfl, ?_, ?_⟩,
    { State.reset with rxf := ⟨true, Frame.zero⟩, cfg.cmdTable := refConfig.cmdTable }, rfl, ?_⟩
  · intro y hy h
    simp only [List.mem_singleton] at hy
    subst hy
    exact absurd h.2.1 (by decide)
  · exact ⟨.inl ⟨rfl, rfl, rfl⟩, by decide, by decide⟩
  · intro e he h
    have : ∀ e ∈ refConfig.cmdTable, 0 < e.pattern.length := by decide
    exact absurd (Nat.lt_of_lt_of_le (this e he) h.2.1) (by decide)

/-- V41: the entries of REF exchanged, so that the shorter pattern stands first. -/
theorem witness_ShorterEarlierPatternShadowsALongerOne :
    ∃ (s : State) (post : List CmdEntry) (e x : CmdEntry),
      s.cfg.cmdTable = [] ++ e :: ([] ++ x :: post) ∧ e.mode = x.mode ∧ e.pattern <+: x.pattern :=
  ⟨{ State.reset with cfg.cmdTable := [refConfig.cmdTable[1], refConfig.cmdTable[0]] }, [], _, _, rfl, rfl, by decide⟩

/-- The first and the last action of REF. -/
theorem witness_ApplyActionHasTheEffectOfItsEntry :
    ∀ a ∈ [1#8, 4#8], ∃ e : ActionEntry, 1 ≤ a.toNat ∧ State.reset.cfg.actionTable[a.toNat - 1]? = some e := by
  intro a ha
  simp only [List.mem_cons, List.not_mem_nil, or_false] at ha
  rcases ha with rfl | rfl
  · exact ⟨_, by decide, rfl⟩
  · exact ⟨_, by decide, rfl⟩

theorem witness_TickCountsOneSecond :
    ∃ s u : State, s.ds.mode = .play ∧ bcdInc s.ds.sec ≠ 0x60#8 ∧ u.ds.mode = .play ∧ bcdInc u.ds.sec = 0x60#8 :=
  ⟨{ State.reset with ds := playing 0x00#8 0x07#8 }, { State.reset with ds := playing 0x99#8 0x59#8 }, rfl, by decide, rfl,
    by decide⟩

/-- 00:00, and 99:58, the last time that advances. -/
theorem witness_TickAdvancesTheElapsedTime :
    ∀ m c, (m, c) = (0x00#8, 0x00#8) ∨ (m, c) = (0x99#8, 0x58#8) → ∃ s t : State, s.ds = playing m c ∧
      s.ds.mode = .play ∧ isBcd s.ds.min = true ∧ isBcd s.ds.sec = true ∧ bcdVal s.ds.sec ≤ 59 ∧
      ¬ (s.ds.min = 0x99#8 ∧ s.ds.sec = 0x59#8) ∧ exec .tick s = .next t := by
  intro m c h
  have hb : isBcd m = true ∧ isBcd c = true ∧ bcdVal c ≤ 59 ∧ ¬ (m = 0x99#8 ∧ c = 0x59#8) := by
    rcases h with h | h <;> cases h <;> decide
  exact ⟨{ State.reset with ds := playing m c }, _, rfl, rfl, hb.1, hb.2.1, hb.2.2.1, hb.2.2.2, rfl⟩

/-- The templates of REF; a custom packing; a listed code, at the last place a list can have. -/
theorem witness_BuiltFrameIsTheTemplateWithItsPatches :
    (∀ t ∈ refConfig.templates, 1 ≤ t.bytes.length ∧ t.bytes.length ≤ 32 ∧ ∀ p ∈ t.patches, p.1 < t.bytes.length) ∧
    refConfig.flagsByte = .standard ∧ refConfig.wf = true ∧
    (∃ c : Config, c.flagsByte = .custom 3) ∧
    ∃ (c : Config) (n : Fin 251) (b : Byte), n = 250 ∧ c.stateCode.others[n.val]? = some b :=
  ⟨by decide, rfl, test_ref_is_well_formed, ⟨{ refConfig with flagsByte := .custom 3 }, rfl⟩,
    { refConfig with stateCode.others := List.replicate 251 7#8 }, 250, 7#8, rfl, by decide +kernel⟩

theorem witness_RespondQueuesTheResponsesOfTheAction :
    ∃ (s : State) (a : Byte) (e : ActionEntry), Safe s ∧ 1 ≤ a.toNat ∧ s.cfg.actionTable[a.toNat - 1]? = some e :=
  ⟨State.reset, 4#8, _, reset_safe, by decide, rfl⟩

/-- A queue with one slot free, and a full one. -/
theorem queue_safe (n : Byte) (h : (n - 0#8).toNat ≤ 4) (p : Bool) : Safe { State.reset with qw := n, respPending := p } :=
  fresh_safe refConfig [] Frame.zero n p test_ref_is_well_formed rfl h

theorem witness_BuildStatusQueuesTheStatusFrame :
    (∃ s, Safe s ∧ s.respPending = true ∧ s.queued < s.cfg.queueCap) ∧
    ∃ s, Safe s ∧ s.respPending = true ∧ s.queued = s.cfg.queueCap :=
  ⟨⟨_, queue_safe 3#8 (by decide) true, rfl, by decide⟩, ⟨_, queue_safe 4#8 (by decide) true, rfl, by decide⟩⟩

theorem witness_PushQueuesACopyOrDropsTheNewest :
    (∃ s, Safe s ∧ s.queued < s.cfg.queueCap) ∧ ∃ s, Safe s ∧ s.queued = s.cfg.queueCap :=
  ⟨⟨_, queue_safe 3#8 (by decide) false, by decide⟩, ⟨_, queue_safe 4#8 (by decide) false, by decide⟩⟩

theorem witness_PopTakesTheHeadInOrder : ∃ s u : State, s.qw = s.qr ∧ u.qw ≠ u.qr :=
  ⟨State.reset, { State.reset with qw := 1#8 }, rfl, by decide⟩

/-- The first attempt is OK (a broadcast frame); all three fail (a frame of length 0). -/
theorem witness_DrainSendsTheHeadAtMostThreeTimes :
    (∃ s u : State, s.qw ≠ s.qr ∧ queueContents s = [broadcast1] ∧
      exec .sendFrame { s with txf := broadcast1, qr := s.qr + 1#8, att := 1#2 } = .next u ∧ u.result.code = .ok) ∧
    ∃ s u v w : State, s.qw ≠ s.qr ∧ queueContents s = [Frame.zero] ∧
      exec .sendFrame { s with txf := Frame.zero, qr := s.qr + 1#8, att := 1#2 } = .next u ∧ u.result.code ≠ .ok ∧
      exec .sendFrame { u with att := 2#2 } = .next v ∧ v.result.code ≠ .ok ∧
      exec .sendFrame { v with att := 3#2 } = .next w ∧ w.result.code ≠ .ok :=
  ⟨⟨{ tinyBus [] with qw := 1#8, slots := [(0, broadcast1)] }, _, by decide, by decide, rfl, by decide +kernel⟩,
    ⟨{ State.reset with qw := 1#8 }, _, _, _, by decide, by decide, rfl, by decide, rfl, by decide, rfl, by decide⟩⟩

/-- Each branch of RUN_STEP. -/
theorem witness_RunStepReceivesElseSends :
    (∃ s u : State, envDrives s.env s.now = true ∧ exec .readFrame s = .next u ∧ u.result.code = .ok) ∧
    (∃ s u : State, envDrives s.env s.now = true ∧ exec .readFrame s = .next u ∧ u.result.code ≠ .ok) ∧
    (∃ s : State, s.drv = false ∧ envDrives s.env s.now = false ∧ s.qw ≠ s.qr) ∧
    ∃ s : State, s.drv = false ∧ envDrives s.env s.now = false ∧ s.respPending = false ∧ s.qw = s.qr :=
  ⟨⟨tinyBus (waveOf tiny 0 (frameSymbols tiny broadcast1)), _, by decide +kernel, rfl, broadcast_is_read⟩,
    ⟨tinyBus [(0, 1)], _, by decide, rfl, by decide +kernel⟩, ⟨{ State.reset with qw := 1#8 }, rfl, rfl, by decide⟩,
    ⟨State.reset, rfl, rfl, rfl, rfl⟩⟩

/-- The limits of each range of illegal operands. -/
theorem witness_ReservedCodesAndIllegalOperandsOnlyReportBadOp :
    (∀ n ∈ [0#4, 13#4, 15#4], n.toNat = 0 ∨ 12 < n.toNat) ∧
    (∀ a ∈ [5#8, 255#8], State.reset.cfg.actionTable.length < a.toNat) ∧
    (∀ sel ∈ [5#6, 31#6], 4 < sel.toNat ∧ sel.toNat < 32) ∧
    ∀ sel ∈ [13#8, 15#8, 22#8, 31#8, 73#8, 255#8],
      (12 < sel.toNat ∧ sel.toNat < 16) ∨ (21 < sel.toNat ∧ sel.toNat < 32) ∨ 72 < sel.toNat := by decide

theorem witness_WriteTxfWritesOneField : ∃ i j : Nat, i = 0 ∧ i < 32 ∧ j = 31 ∧ j < 32 := ⟨0, 31, by decide⟩

/-- The last payload byte; the last code, and the last position. -/
theorem witness_ReadRegisterShowsEveryListedRegister :
    (∃ (s : State) (i : Nat), i < 32 ∧ 63 = 32 + i ∧ 0xA5 = (s.rxf.frame.pay.read i).toNat) ∧
    ∃ s : State, s.result.code = .dropped ∧ s.result.field = .dataAck :=
  ⟨⟨{ State.reset with rxf := ⟨true, broadcast32⟩ }, 31, by decide, rfl, by decide⟩,
    ⟨{ State.reset with result := ⟨.dropped, .dataAck, 0#6⟩ }, rfl, rfl⟩⟩

/-- A slot whose edge comes at the last tick. -/
theorem witness_WireSymbolsAreTheCodecPulses :
    ∃ (s : State) (g : Nat), s.cfg.wf = true ∧ s.drv = false ∧ g < s.cfg.rxTimeout ∧
      QuietFrom s.env s.now (s.now + g) ∧ DrivenFrom s.env (s.now + g) (s.now + g + s.cfg.t1Driven) ∧
      QuietFrom s.env (s.now + g + s.cfg.t1Driven) (s.now + g + s.cfg.t0Driven + 1) :=
  ⟨tinyBus [(7, 1)], 7, by decide +kernel, rfl, by decide, quiet_of (by decide), driven_of (by decide),
    quiet_of (by decide)⟩

/-- A broadcast head; a unicast head whose slots are held for `T_MAXBIT`; one whose second slot is left short, held too
long, or never released; the lengths next to the legal ones. -/
theorem witness_FrameHeadsAreSentSymbolBySymbol :
    (∃ s : State, s.cfg.wf = true ∧ SlotsHeld s.cfg s.env s.now [] (fun _ => 0)) ∧
    (∃ (s : State) (late : Nat → Nat), s.cfg.wf = true ∧ SlotsHeld s.cfg s.env s.now headAckSlots late ∧ late 44 = 2) ∧
    (∀ d ∈ [1, 5, 8], ∃ (s : State) (pre post : List Place) (late : Nat → Nat), s.cfg.wf = true ∧
      headAckSlots = pre ++ (34, .controlAck, 0#6) :: post ∧ SlotsHeld s.cfg s.env s.now pre late ∧
      UnackedFor s.cfg s.env (heldTime s.cfg late s.now 34) d) ∧
    ∃ a b c d : BitVec 8, 1 ≤ a.toNat ∧ a.toNat ≤ 32 ∧ 1 ≤ b.toNat ∧ b.toNat = 32 ∧ c.toNat = 0 ∧ d.toNat = 33 := by
  refine ⟨⟨tinyBus [], by decide +kernel, fun _ h => absurd h List.not_mem_nil, fun _ _ => rfl⟩,
    ⟨{ onBus lateAcks with cfg := slack, now := 4 }, _, test_slack_is_well_formed, late_acks _ (by decide), rfl⟩,
    fun d hd => ⟨{ tinyBus [(118, 3), (142, d)] with now := 4 }, headAckSlots.take 1, headAckSlots.drop 2, fun _ => 0,
      test_tiny_is_well_formed, rfl, held_acks fun k hk j => ⟨fun hj => ?_, ?_⟩, ?_, ?_, driven_of ?_, ?_⟩,
    1#8, 32#8, 0#8, 33#8, by decide⟩
  · revert j; revert k; revert d; decide
  · revert k; revert d; decide
  all_goals revert d; decide +kernel

/-- A slot released within the bit period and one held for `T_MAXBIT`; slots left short, held too long, never released. -/
theorem witness_DataGroupsAreSentSymbolBySymbol :
    (∃ s : State, s.cfg.wf = true ∧ AckedFor s.cfg s.env (s.now + 9 * s.cfg.tBit) 3) ∧
    (∃ s : State, s.cfg.wf = true ∧ AckedFor s.cfg s.env (s.now + 9 * s.cfg.tBit) 6 ∧ s.cfg.tBit = 4) ∧
    ∀ d ∈ [1, 5, 8], ∃ s : State, s.cfg.wf = true ∧ UnackedFor s.cfg s.env (s.now + 9 * s.cfg.tBit) d := by
  refine ⟨⟨tinyBus [(36, 3)], test_tiny_is_well_formed, by decide, by decide, driven_of (by decide), by decide⟩,
    ⟨{ onBus [(36, 6)] with cfg := slack }, test_slack_is_well_formed, ⟨by decide, by decide, driven_of (by decide),
      by decide⟩, rfl⟩,
    fun d hd => ⟨tinyBus [(36, d)], test_tiny_is_well_formed, ?_, ?_, driven_of ?_, ?_⟩⟩ <;>
  · revert d; decide +kernel

/-- A mask that is set; an error, which frees the scratch registers and is reported. -/
theorem witness_RegistersHaveOnlyTheirNamedWriters :
    (∃ (i : Instr) (s t : State), exec i s = .next t ∧ t.masked ≠ s.masked ∧ t.val = s.val) ∧
    ∃ (i : Instr) (s t : State), exec i s = .next t ∧ t.now ≠ s.now ∧ t.drvLog ≠ s.drvLog ∧ t.result.code ≠ .ok :=
  ⟨⟨.mask, State.reset, _, rfl, by decide, by decide⟩,
    ⟨.rxBit, tinyBus [], _, rfl, by decide +kernel, by decide +kernel, by decide +kernel⟩⟩

theorem witness_EveryErrorIsOneDiagEvent :
    (∃ s t : State, exec .rxBit s = .next t ∧ t.result.code = .desync) ∧ ∃ s t : State, exec .qPop s = .next t ∧
      t.result.code = .empty :=
  ⟨⟨tinyBus [], _, rfl, by decide +kernel⟩, ⟨State.reset, _, rfl, by decide⟩⟩

end Sys2Proof.Tests
end

section
/-! SUPPORT. The scope (00_scope.md): a configuration that `step` accepts meets R8, and a step with no arrival due runs
the operation at the head of the host port (R16). -/

namespace Sys2Proof.Machine

/-! ## The accepted configurations (R8) -/

theorem lengthLegal_iff (n : Nat) : lengthLegal n = true ↔ 1 ≤ n ∧ n ≤ 32 := by
  simp [lengthLegal]

/-- The capacities that the model lists are the powers of two up to `2^7` (R8 (g)). -/
theorem queueCap_pow_two_of_wfG {c : Config} (h : c.wfG = true) : (∃ k, c.queueCap = 2 ^ k) ∧ c.queueCap ≤ 128 := by
  have hmem : c.queueCap ∈ (List.range 8).map (2 ^ ·) := List.contains_iff_mem.mp h
  obtain ⟨k, hk, hcap⟩ := List.mem_map.mp hmem
  have hk7 : k ≤ 7 := Nat.le_of_lt_succ (List.mem_range.mp hk)
  exact ⟨⟨k, hcap.symm⟩, hcap ▸ Nat.pow_le_pow_right two_pos hk7⟩

/-- R8 (h), table by table. -/
theorem wfH_iff (c : Config) :
    c.wfH = true ↔ (∀ e ∈ c.cmdTable, 1 ≤ e.pattern.length ∧ e.pattern.length ≤ 32) ∧
      ∀ t ∈ c.templates, (1 ≤ t.bytes.length ∧ t.bytes.length ≤ 32) ∧ ∀ p ∈ t.patches, p.1 < t.bytes.length := by
  simp only [Config.wfH, Bool.and_eq_true, List.all_eq_true, lengthLegal_iff, decide_eq_true_eq]

/-- The clauses of R8 on the queue and on the tables are among those that the model checks. -/
theorem wfG_wfH_of_wf {c : Config} (h : c.wf = true) : c.wfG = true ∧ c.wfH = true := by
  simp only [Config.wf, Bool.and_eq_true] at h
  obtain ⟨⟨⟨-, hg⟩, hh⟩, -⟩ := h
  exact ⟨hg, hh⟩

theorem meetsR8_of_wf {c : Config} (h : c.wf = true) : MeetsR8 c := by
  obtain ⟨hdata, hfloat, hmax, hstart, hstartFloat, htimerStart, htimerRx, -⟩ := wf_timing h
  obtain ⟨hg, hh⟩ := wfG_wfH_of_wf h
  exact
    { dataPulses := hdata
      dataFloat := ⟨hfloat, by omega⟩
      maxBit := ⟨hmax, by omega⟩
      startPulse := hstart
      startFloat := hstartFloat
      timerWidth := by
        rw [← Nat.add_max_add_right]
        exact max_lt htimerStart htimerRx
      queue := queueCap_pow_two_of_wfG hg
      tables := (wfH_iff c).mp hh }

/-! ## One step, by what there is to do -/

/-- A configuration that is not accepted is refused whatever else the state holds (U8). -/
theorem step_of_not_wf {s : State} (h : ¬ s.cfg.wf = true) : step s = .refused .illFormedConfig :=
  if_neg h

/-- The step of an accepted configuration that has an operation to run. -/
theorem step_of_nextTodo_run {s r : State} {w : PortWord} (hwf : s.cfg.wf = true) (h : nextTodo s = .run w r) :
    step s = exec (decodePort w) r := by
  simp only [step, hwf, h, if_true]

theorem arrivalDue_eq_false_iff (s : State) : s.arrivalDue = false ↔ ∀ t ∈ s.arrivals, s.now < t := by
  simp [State.arrivalDue]

/-- With no arrival due, the operation at the head of the port is what to do next (R16). -/
theorem nextTodo_of_op {s : State} {w : PortWord} {rest : List Input} (hdue : s.arrivalDue = false)
    (hop : s.inputs = .op w :: rest) : nextTodo s = .run w { s with inputs := rest } := by
  simp [nextTodo, hdue, hop]

/-! ## The obligations -/

/-- Settles O4: what `step` accepts meets R8, so what breaks R8 is not accepted. -/
theorem illFormedConfigurationsAreRefused : Obligations.IllFormedConfigurationsAreRefused :=
  fun _ hbreaks => step_of_not_wf fun hwf => hbreaks (meetsR8_of_wf hwf)

/-- Settles O1: the head of the port is what to do next, and `step` runs it decoded. -/
theorem stepRunsTheDecodedOperation : Obligations.StepRunsTheDecodedOperation :=
  fun s _ _ hwf harrivals hop =>
    step_of_nextTodo_run hwf (nextTodo_of_op ((arrivalDue_eq_false_iff s).mpr harrivals) hop)

end Sys2Proof.Machine
end

section
/-! SUPPORT. Which parts of the state a step writes (`WritesOnly`): said once for each named update, and composed for
the steps of the codec and of the frame operations. -/

namespace Sys2Proof.Machine

/-! ## The parts of the state -/

/-- The registers of R20 and what the model keeps beside them, grouped as the rules name their writers (R21 to R33, R39
to R42). RESULT, which every operation writes, and DIAG are not among them. -/
inductive Part where
  /-- The configuration, the bus environment and the inputs to come (R10, R42, R46). -/
  | outside
  | arrivals
  | rxf
  | txf
  | ds
  | respPending
  /-- The slots, QW and OVF_COUNT (R40, R41). -/
  | queue
  | qr
  /-- DROP_COUNT and ATT (R23, R41). -/
  | drops
  | act
  | val
  | par
  | masked
  | tickLatch
  | timerBase
  | now
  /-- DRV and its record (R11, R25). -/
  | line
  | seq
  | dur
  /-- SHIFT and BITCNT (R23). -/
  | field
  /-- IDX and WF (R23). -/
  | work
deriving DecidableEq

/-- The type of what a part holds. -/
abbrev Part.Val : Part → Type
  | .outside => Config × List (Nat × Nat) × List Input
  | .arrivals => List Nat
  | .rxf => RxFrame
  | .txf => Frame
  | .ds => DeviceState
  | .queue => List (Nat × Frame) × Byte × BitVec 16
  | .qr | .act => Byte
  | .drops => BitVec 16 × BitVec 2
  | .val => BitVec 12
  | .respPending | .par | .masked | .tickLatch => Bool
  | .timerBase | .now | .dur => Nat
  | .line => Bool × List (Nat × Bool)
  | .seq => Seq
  | .field => BitVec 12 × BitVec 4
  | .work => BitVec 6 × RxFrame

/-- What a part holds in a state. -/
def Part.read : (r : Part) → State → r.Val
  | .outside, s => (s.cfg, s.env, s.inputs)
  | .arrivals, s => s.arrivals
  | .rxf, s => s.rxf
  | .txf, s => s.txf
  | .ds, s => s.ds
  | .respPending, s => s.respPending
  | .queue, s => (s.slots, s.qw, s.ovfCount)
  | .qr, s => s.qr
  | .drops, s => (s.dropCount, s.att)
  | .act, s => s.act
  | .val, s => s.val
  | .par, s => s.par
  | .masked, s => s.masked
  | .tickLatch, s => s.tickLatch
  | .timerBase, s => s.timerBase
  | .now, s => s.now
  | .line, s => (s.drv, s.drvLog)
  | .seq, s => s.seq
  | .dur, s => s.dur
  | .field, s => (s.shift, s.bitcnt)
  | .work, s => (s.idx, s.wfr)

/-- From s to t only the parts of the list may have changed. -/
def WritesOnly (W : List Part) (s t : State) : Prop := ∀ r, r ∉ W → r.read t = r.read s

theorem WritesOnly.refl (s : State) : WritesOnly [] s s := fun _ _ => rfl

theorem WritesOnly.mono {V W : List Part} {s t : State} (h : WritesOnly V s t) (hVW : V ⊆ W := by decide) :
    WritesOnly W s t :=
  fun r hr => h r fun hV => hr (hVW hV)

/-- One step after another writes what either of them writes. -/
theorem WritesOnly.append {V W : List Part} {s t u : State} (a : WritesOnly V s t) (b : WritesOnly W t u) :
    WritesOnly (V ++ W) s u :=
  fun r hr => (b r fun h => hr (List.mem_append_right V h)).trans (a r fun h => hr (List.mem_append_left W h))

theorem WritesOnly.trans {W : List Part} {s t u : State} (a : WritesOnly W s t) (b : WritesOnly W t u) :
    WritesOnly W s u :=
  fun r hr => (b r hr).trans (a r hr)

/-- A part that holds at the end what it held at the start is as good as not written. -/
theorem WritesOnly.restored {r : Part} {W : List Part} {s t : State} (h : WritesOnly (r :: W) s t)
    (hr : r.read t = r.read s) : WritesOnly W s t := fun q hq => by
  by_cases hqr : q = r
  · exact hqr ▸ hr
  · exact h q fun hmem => (List.mem_cons.mp hmem).elim hqr hq

/-- A part that differs was written. -/
theorem WritesOnly.mem_of_ne {r : Part} {W : List Part} {s t : State} (h : WritesOnly W s t)
    (hr : r.read t ≠ r.read s) : r ∈ W :=
  not_imp_comm.mp (h r) hr

/-! ## What each named update writes -/

theorem writes_waitTicks (n : Nat) (s : State) : WritesOnly [.now] s (waitTicks n s) :=
  fun r hr => by cases r <;> simp [Part.read] at hr ⊢

theorem writes_setDrv (b : Bool) (s : State) : WritesOnly [.line] s (setDrv b s) :=
  fun r hr => by cases r <;> simp [Part.read] at hr ⊢

theorem writes_setResult (e : ResultReg) (s : State) : WritesOnly [] s (setResult e s) :=
  fun r _ => by cases r <;> rfl

theorem writes_report (c : ResCode) (s : State) : WritesOnly [] s (report c s) := writes_setResult _ s

theorem writes_emit (e : ResultReg) (s : State) : WritesOnly [] s (emit e s) :=
  fun r _ => by cases r <;> rfl

theorem writes_scramble (s : State) : WritesOnly [.field, .work] s (scramble s) :=
  fun r hr => by cases r <;> simp [Part.read] at hr ⊢

theorem writes_seq (q : Seq) (s : State) : WritesOnly [.seq] s { s with seq := q } :=
  fun r hr => by cases r <;> simp [Part.read] at hr ⊢

theorem writes_setWork (f : Frame) (s : State) : WritesOnly [.work] s (setWork f s) :=
  fun r hr => by cases r <;> simp [Part.read] at hr ⊢

theorem writes_idx (i : BitVec 6) (s : State) : WritesOnly [.work] s { s with idx := i } :=
  fun r hr => by cases r <;> simp [Part.read] at hr ⊢

theorem writes_field (v : BitVec 12) (n : BitVec 4) (s : State) :
    WritesOnly [.field] s { s with shift := v, bitcnt := n } :=
  fun r hr => by cases r <;> simp [Part.read] at hr ⊢

theorem writes_dur (d : Nat) (s : State) : WritesOnly [.dur] s { s with dur := d } :=
  fun r hr => by cases r <;> simp [Part.read] at hr ⊢

theorem writes_par (b : Bool) (s : State) : WritesOnly [.par] s { s with par := b } :=
  fun r hr => by cases r <;> simp [Part.read] at hr ⊢

theorem writes_val (v : BitVec 12) (s : State) : WritesOnly [.val] s { s with val := v } :=
  fun r hr => by cases r <;> simp [Part.read] at hr ⊢

theorem writes_masked (b : Bool) (s : State) : WritesOnly [.masked] s { s with masked := b } :=
  fun r hr => by cases r <;> simp [Part.read] at hr ⊢

theorem writes_tickLatch (b : Bool) (s : State) : WritesOnly [.tickLatch] s { s with tickLatch := b } :=
  fun r hr => by cases r <;> simp [Part.read] at hr ⊢

theorem writes_rxf (f : RxFrame) (s : State) : WritesOnly [.rxf] s { s with rxf := f } :=
  fun r hr => by cases r <;> simp [Part.read] at hr ⊢

theorem writes_txf (f : Frame) (s : State) : WritesOnly [.txf] s { s with txf := f } :=
  fun r hr => by cases r <;> simp [Part.read] at hr ⊢

theorem writes_act (a : Byte) (s : State) : WritesOnly [.act] s { s with act := a } :=
  fun r hr => by cases r <;> simp [Part.read] at hr ⊢

theorem writes_att (a : BitVec 2) (s : State) : WritesOnly [.drops] s { s with att := a } :=
  fun r hr => by cases r <;> simp [Part.read] at hr ⊢

theorem writes_respPending (b : Bool) (s : State) : WritesOnly [.respPending] s { s with respPending := b } :=
  fun r hr => by cases r <;> simp [Part.read] at hr ⊢

theorem writes_device (d : DeviceState) (b : Bool) (s : State) :
    WritesOnly [.ds, .respPending] s { s with ds := d, respPending := b } :=
  fun r hr => by cases r <;> simp [Part.read] at hr ⊢

theorem writes_queue (q : List (Nat × Frame)) (w : Byte) (n : BitVec 16) (s : State) :
    WritesOnly [.queue] s { s with slots := q, qw := w, ovfCount := n } :=
  fun r hr => by cases r <;> simp [Part.read] at hr ⊢

theorem writes_tickEffect (s : State) : WritesOnly [.ds, .respPending] s (tickEffect s) := writes_device _ _ s

theorem writes_latchArrivals (s : State) : WritesOnly [.arrivals, .tickLatch] s (latchArrivals s) :=
  fun r hr => by cases r <;> simp [Part.read] at hr ⊢

theorem writes_popHead (s : State) : WritesOnly [.txf, .qr] s (popHead s) :=
  fun r hr => by cases r <;> simp [Part.read] at hr ⊢

theorem writes_dropFrame (s : State) : WritesOnly [.drops] s (dropFrame s) :=
  fun r hr => by cases r <;> simp [Part.read, dropFrame] at hr ⊢

/-- RESET leaves alone what lies outside the block, the arrivals and the clock (R260). -/
theorem writes_resetBlock (s : State) :
    WritesOnly [.rxf, .txf, .ds, .respPending, .queue, .qr, .drops, .act, .val, .par, .masked, .tickLatch, .timerBase,
      .line, .seq, .dur, .field, .work] s (resetBlock s) :=
  fun r hr => by cases r <;> simp [Part.read, resetBlock] at hr ⊢

/-! ## The steps of the codec -/

theorem writes_waitFor (lvl : Level) (limit : Nat) (s : State) : WritesOnly [.now] s (waitFor lvl limit s).2 := by
  rcases waitFor_cases lvl limit s with ⟨e, -, -, -, h⟩ | ⟨-, h⟩ <;> rw [h] <;> exact writes_waitTicks _ s

/-- The core drives for n ticks and releases the line (R80). -/
theorem writes_drive (n : Nat) (s : State) :
    WritesOnly [.now, .line] s (setDrv false (waitTicks n (setDrv true s))) :=
  (((writes_setDrv true s).append (writes_waitTicks n _)).append (writes_setDrv false _)).mono

theorem writes_txBit (v : Bool) (s : State) : WritesOnly [.now, .line] s (txBit v s) :=
  ((writes_drive _ s).append (writes_waitTicks _ _)).mono

theorem writes_txStart (s : State) : WritesOnly [.now, .line] s (txStart s) :=
  ((writes_drive _ s).append (writes_waitTicks _ _)).mono

theorem writes_txBits (v : BitVec 12) (k : Nat) (s : State) : WritesOnly [.now, .line, .field] s (txBits v k s) := by
  induction k generalizing s with
  | zero => exact (WritesOnly.refl s).mono
  | succ k ih => exact (((writes_txBit _ s).append (writes_field _ _ _)).append (ih _)).mono

theorem writes_txField (n : Nat) (v : BitVec 12) (s : State) : WritesOnly [.now, .line, .field] s (txField n v s) :=
  (((writes_field _ _ s).append (writes_txBits _ n _)).append (writes_txBit _ _)).mono

theorem writes_ackRead (s : State) : WritesOnly [.now, .line, .dur] s (ackRead s).2 := by
  have hdrive := writes_drive s.cfg.t1Driven s
  unfold ackRead
  dsimp only
  split
  next u hwait =>
    exact (hdrive.append ((hwait ▸ writes_waitFor _ _ _ : WritesOnly _ _ u).append (writes_dur _ u))).mono
  next e u hwait =>
    exact (hdrive.append (((hwait ▸ writes_waitFor _ _ _ : WritesOnly _ _ u).append (writes_dur _ u)).append
      (writes_waitTicks _ _))).mono

/-! ## Steps that may raise -/

theorem Res.Ends.imp {α : Type} {P Q : State → Prop} {r : Res α} (h : r.Ends P) (hPQ : ∀ t, P t → Q t) : r.Ends Q := by
  cases r <;> exact hPQ _ h

theorem Res.Ends.mono {α : Type} {V W : List Part} {s : State} {r : Res α} (h : r.Ends (WritesOnly V s))
    (hVW : V ⊆ W := by decide) : r.Ends (WritesOnly W s) :=
  h.imp fun _ ht => ht.mono hVW

theorem Res.Ends.after {α : Type} {V W : List Part} {s t : State} {r : Res α} (h : WritesOnly V s t)
    (hr : r.Ends (WritesOnly W t)) : r.Ends (WritesOnly (V ++ W) s) :=
  hr.imp fun _ hu => h.append hu

theorem Res.Ends.bind {α β : Type} {V W : List Part} {s : State} {r : Res α} {k : α → State → Res β}
    (hr : r.Ends (WritesOnly V s)) (hk : ∀ a t, (k a t).Ends (WritesOnly W t)) :
    (r.andThen k).Ends (WritesOnly (V ++ W) s) := by
  cases r with
  | ok a t => exact Res.Ends.after hr (hk a t)
  | err e t => exact WritesOnly.mono hr (List.subset_append_left V W)

theorem writes_ok {α : Type} (a : α) (s : State) : (Res.ok a s).Ends (WritesOnly [] s) := WritesOnly.refl s

theorem writes_rxBit (s : State) : (rxBit s).Ends (WritesOnly [.now, .par, .dur] s) := by
  have measured (n m d : Nat) : WritesOnly [.now, .dur] s { waitTicks n (waitTicks m s) with dur := d } :=
    (((writes_waitTicks m s).append (writes_waitTicks n _)).append (writes_dur d _)).mono
  rcases rxBit_cases s with ⟨-, h⟩ | ⟨g, -, -, -, ⟨-, h⟩ | ⟨d, -, -, -, ⟨-, h⟩ | ⟨b, -, h⟩⟩⟩ <;> rw [h]
  · exact (writes_waitTicks _ s).mono
  · exact (measured _ _ _).mono
  · exact (measured _ _ _).mono
  · exact ((measured d g (s.durOf d)).append (writes_par _ _)).mono

theorem writes_rxBits (k : Nat) (s : State) : (rxBits k s).Ends (WritesOnly [.now, .par, .dur, .field] s) := by
  induction k generalizing s with
  | zero => exact (WritesOnly.refl s).mono
  | succ k ih =>
    exact ((writes_rxBit s).bind fun _ t => Res.Ends.after (writes_field _ _ t) (ih _)).mono

theorem writes_rxField (n : Nat) (s : State) : (rxField n s).Ends (WritesOnly [.now, .par, .dur, .field] s) :=
  (Res.Ends.bind (Res.Ends.after (writes_field _ _ s) (writes_rxBits n _)) fun _ t => writes_ok _ t).mono

theorem writes_rxStart (s : State) : (rxStart s).Ends (WritesOnly [.now, .dur] s) := by
  rcases rxStart_cases s with ⟨-, h⟩ | ⟨g, -, -, -, ⟨-, h⟩ | ⟨d, -, -, -, ⟨-, h⟩ | ⟨-, h⟩⟩⟩ <;> rw [h]
  · exact (writes_waitTicks _ s).mono
  all_goals exact (((writes_waitTicks g s).append (writes_waitTicks _ _)).append (writes_dur _ _)).mono

theorem writes_ackSend (s : State) : (ackSend s).Ends (WritesOnly [.now, .line] s) := by
  rcases ackSend_cases s with ⟨-, h⟩ | ⟨g, -, -, -, t, rfl, ⟨-, h⟩ | ⟨e, -, -, -, h⟩⟩ <;> rw [h]
  · exact (writes_waitTicks _ s).mono
  all_goals exact (((writes_waitTicks g s).append (writes_drive _ _)).append (writes_waitTicks _ _)).mono

/-! ## The steps of a frame operation -/

/-- What an ack slot writes at the sender; a broadcast frame has none (R82, R147). -/
def slotParts (unicast : Bool) : List Part := if unicast then [.now, .line, .seq, .dur] else []

theorem writes_txAck (u : Bool) (f : FieldPos) (i : BitVec 6) (s : State) :
    (txAck u f i s).Ends (WritesOnly (slotParts u) s) := by
  cases u with
  | false => exact WritesOnly.refl s
  | true =>
    have h : WritesOnly (slotParts true) s (ackRead (sendAt f s)).2 :=
      ((writes_seq _ s).append (writes_ackRead (sendAt f s))).mono
    simp only [txAck, if_true]
    split <;> exact h

/-- What a head or a data group writes at the sender (R146). -/
def groupParts (unicast : Bool) : List Part := [.now, .line, .seq, .field] ++ slotParts unicast

theorem writes_sendField (p : FieldPos) (n : Nat) (v : BitVec 12) (s : State) :
    WritesOnly [.now, .line, .seq, .field] s (txField n v (sendAt p s)) :=
  ((writes_seq _ s).append (writes_txField n v _)).mono

theorem writes_sendGroup (u : Bool) (p q : FieldPos) (i : BitVec 6) (n : Nat) (v : BitVec 12) (s : State) :
    (txAck u q i (txField n v (sendAt p s))).Ends (WritesOnly (groupParts u) s) :=
  Res.Ends.after (writes_sendField p n v s) (writes_txAck u q i _)

theorem writes_txHead (u : Bool) (snd rcv : Addr) (ctl : BitVec 4) (len : BitVec 8) (s : State) :
    (txHead u snd rcv ctl len s).Ends (WritesOnly (groupParts u) s) := by
  have hstart : WritesOnly [.now, .line, .seq] s (txStart (sendAt .start s)) :=
    ((writes_seq _ s).append (writes_txStart _)).mono
  have hmode (t : State) (v : Bool) : WritesOnly [.now, .line, .seq] t (txBit v (sendAt .mode t)) :=
    ((writes_seq _ t).append (writes_txBit v _)).mono
  exact (Res.Ends.bind (Res.Ends.after ((hstart.append (hmode _ _)).append (writes_sendField _ _ _ _))
    (writes_sendGroup u _ _ _ _ _ _)) fun _ t => (writes_sendGroup u _ _ _ _ _ t).bind fun _ t =>
    writes_sendGroup u _ _ _ _ _ t).mono (by cases u <;> decide)

theorem writes_txData (u : Bool) (d : Byte) (i : BitVec 6) (s : State) :
    (txData u d i s).Ends (WritesOnly (groupParts u) s) :=
  writes_sendGroup u _ _ _ _ _ s

theorem writes_txPayload (u : Bool) (pay : Memory) (k i : Nat) (s : State) :
    (txPayload u pay k i s).Ends (WritesOnly (.work :: groupParts u) s) := by
  induction k generalizing i s with
  | zero => exact (WritesOnly.refl s).mono (List.nil_subset _)
  | succ k ih =>
    exact (Res.Ends.bind (Res.Ends.after (writes_idx _ s) (writes_txData u _ _ _)) fun _ t => ih _ t).mono
      (by cases u <;> decide)

theorem writes_txFrame (f : Frame) (s : State) :
    (txFrame f s).Ends (WritesOnly [.now, .line, .seq, .field, .dur, .work] s) :=
  ((writes_txHead _ _ _ _ _ s).bind fun _ t => writes_txPayload _ _ _ _ t).mono (by cases f.unicast <;> decide)

/-- What a field or an ack slot writes at the receiver (R148, R149). -/
def readParts : List Part := [.now, .line, .seq, .par, .dur, .field]

theorem writes_rxGroup (n : Nat) (f : FieldPos) (i : BitVec 6) (s : State) :
    (rxGroup n f i s).Ends (WritesOnly readParts s) := by
  have hread := Res.Ends.after ((writes_seq (.busy opReadFrame f) s).append (writes_par false _)) (writes_rxField n _)
  refine (Res.Ends.bind hread.atPos fun v t => Res.Ends.bind (W := []) (writes_rxBit t).atPos fun p u => ?_).mono
  split <;> exact WritesOnly.refl u

theorem writes_rxAck (u forme : Bool) (f : FieldPos) (i : BitVec 6) (s : State) :
    (rxAck u forme f i s).Ends (WritesOnly readParts s) := by
  have hat := writes_seq (.busy opReadFrame f) s
  cases u with
  | false => exact (WritesOnly.refl s).mono
  | true =>
    cases forme with
    | true => exact (Res.Ends.after hat (writes_ackSend _)).atPos.mono
    | false => exact ((Res.Ends.after hat (writes_rxBit _)).atPos.bind fun _ t => writes_ok _ t).mono

theorem writes_rxPayload (u forme : Bool) (k i : Nat) (s : State) :
    (rxPayload u forme k i s).Ends (WritesOnly (.work :: readParts) s) := by
  induction k generalizing i s with
  | zero => exact (WritesOnly.refl s).mono
  | succ k ih =>
    exact (Res.Ends.bind (Res.Ends.after (writes_idx _ s) (writes_rxGroup _ _ _ _)) fun _ t =>
      Res.Ends.bind (Res.Ends.after (writes_setWork _ t) (writes_rxAck _ _ _ _ _)) fun _ t => ih _ t).mono

theorem writes_rxFrame (s : State) : (rxFrame s).Ends (WritesOnly (.work :: readParts) s) := by
  have hgroup (n : Nat) (p : FieldPos) (f : Frame) (t : State) :
      (rxGroup n p 0#6 (setWork f t)).Ends (WritesOnly (.work :: readParts) t) :=
    Res.Ends.after (writes_setWork f t) (writes_rxGroup _ _ _ _)
  have hack (u forme : Bool) (p : FieldPos) (f : Frame) (t : State) :
      (rxAck u forme p 0#6 (setWork f t)).Ends (WritesOnly (.work :: readParts) t) :=
    Res.Ends.after (writes_setWork f t) (writes_rxAck _ _ _ _ _)
  have hat (p : FieldPos) (t : State) := writes_seq (.busy opReadFrame p) t
  unfold rxFrame
  refine (Res.Ends.bind (Res.Ends.after (hat .start s) (writes_rxStart _)).atPos fun _ t =>
    Res.Ends.bind (Res.Ends.after (hat .mode t) (writes_rxBit _)).atPos fun m t =>
    Res.Ends.bind (hgroup _ _ _ t) fun v t => Res.Ends.bind (hgroup _ _ _ t) fun v t =>
    Res.Ends.bind (hack _ _ _ _ t) fun _ t => Res.Ends.bind (writes_rxGroup _ _ _ t) fun v t =>
    Res.Ends.bind (hack _ _ _ _ t) fun _ t =>
    Res.Ends.bind (W := .work :: readParts) (writes_rxGroup _ _ _ t) fun v t => ?_).mono
  split
  · exact (Res.Ends.bind (hack _ _ _ _ t) fun _ t =>
      Res.Ends.bind (writes_rxPayload _ _ _ _ t) fun _ t => writes_ok _ t).mono
  · exact (WritesOnly.refl t).mono

end Sys2Proof.Machine
end

section
/-! SUPPORT. The errors that a step can raise, with the positions they carry (R93, R230); every outcome of SEND_FRAME
and of READ_FRAME; and the state that each instruction leads to (`after`), whose RESULT is always shaped. -/

namespace Sys2Proof.Machine

/-! ## The errors that a step can raise -/

/-- Every error that a step can raise is of a kind. -/
def Res.Raises {α : Type} (E : ResultReg → Prop) : Res α → Prop
  | .ok _ _ => True
  | .err e _ => E e

/-- Whenever a step goes on, its value and the state after it satisfy a property. -/
def Res.Returns {α : Type} (P : α → State → Prop) : Res α → Prop
  | .ok a s => P a s
  | .err _ _ => True

theorem Res.Raises.imp {α : Type} {E F : ResultReg → Prop} {r : Res α} (h : r.Raises E) (hEF : ∀ e, E e → F e) :
    r.Raises F := by
  cases r with
  | ok a t => trivial
  | err e t => exact hEF e h

theorem Res.Raises.andThen {α β : Type} {E : ResultReg → Prop} {r : Res α} {k : α → State → Res β}
    (hr : r.Raises E) (hk : ∀ a t, (k a t).Raises E) : (r.andThen k).Raises E := by
  cases r with
  | ok a t => exact hk a t
  | err e t => exact hr

theorem Res.Raises.atPos {α : Type} {E F : ResultReg → Prop} {r : Res α} {f : FieldPos} {i : BitVec 6}
    (hr : r.Raises E) (hEF : ∀ e, E e → F { code := e.code, field := f, index := i }) : (r.atPos f i).Raises F := by
  cases r with
  | ok a t => trivial
  | err e t => exact hEF e hr

theorem Res.Returns.andThen {α β : Type} {P : α → State → Prop} {Q : β → State → Prop} {r : Res α}
    {k : α → State → Res β} (hr : r.Returns P) (hk : ∀ a t, P a t → (k a t).Returns Q) : (r.andThen k).Returns Q := by
  cases r with
  | ok a t => exact hk a t hr
  | err e t => trivial

/-- When nothing is asked of a first step, only what follows it counts. -/
theorem Res.Returns.after {α β : Type} {Q : β → State → Prop} (r : Res α) {k : α → State → Res β}
    (hk : ∀ a t, (k a t).Returns Q) : (r.andThen k).Returns Q := by
  cases r with
  | ok a t => exact hk a t
  | err e t => trivial

theorem Res.Ends.returns {α : Type} {P : State → Prop} {r : Res α} (h : r.Ends P) : r.Returns fun _ t => P t := by
  cases r with
  | ok a t => exact h
  | err e t => trivial

/-- RX_BIT can fail by DESYNC only (R113). -/
theorem rxBit_raises (s : State) : (rxBit s).Raises (· = raised .desync) := by
  rcases rxBit_cases s with ⟨-, h⟩ | ⟨g, -, -, -, ⟨-, h⟩ | ⟨d, -, -, -, ⟨-, h⟩ | ⟨b, -, h⟩⟩⟩ <;> rw [h]
  · rfl
  · rfl
  · rfl
  · trivial

theorem rxBits_raises (k : Nat) (s : State) : (rxBits k s).Raises (· = raised .desync) := by
  induction k generalizing s with
  | zero => trivial
  | succ k ih => exact (rxBit_raises s).andThen fun _ _ => ih _

theorem rxField_raises (n : Nat) (s : State) : (rxField n s).Raises (· = raised .desync) :=
  (rxBits_raises n _).andThen fun _ _ => trivial

/-- The errors of RX_START (R116). -/
theorem rxStart_raises (s : State) :
    (rxStart s).Raises (· ∈ [raised .desync, raised .startShort, raised .startLong]) := by
  rcases rxStart_cases s with ⟨-, h⟩ | ⟨g, -, -, -, ⟨-, h⟩ | ⟨d, -, -, -, ⟨-, h⟩ | ⟨-, h⟩⟩⟩ <;> rw [h]
  · exact List.mem_cons_self
  · exact List.mem_cons_of_mem _ (List.mem_cons_of_mem _ List.mem_cons_self)
  · exact List.mem_cons_of_mem _ List.mem_cons_self
  · trivial

theorem ackSend_raises (s : State) : (ackSend s).Raises (· = raised .desync) := by
  rcases ackSend_cases s with ⟨-, h⟩ | ⟨g, -, -, -, t, -, ⟨-, h⟩ | ⟨e, -, -, -, h⟩⟩ <;> rw [h]
  · rfl
  · rfl
  · trivial

/-! ## Errors carry a position that their code allows (R93, R230) -/

/-- A data index stands at the positions DATA and DATA_ACK only (R93). -/
def IndexFits (f : FieldPos) (i : BitVec 6) : Prop := f = .data ∨ f = .dataAck ∨ i = 0#6

theorem shaped_desync {f : FieldPos} {i : BitVec 6} (h : IndexFits f i) :
    ResultReg.shaped { code := .desync, field := f, index := i } = true := by
  rcases h with rfl | rfl | rfl <;> simp [ResultReg.shaped]

theorem shaped_parity {f : FieldPos} {i : BitVec 6} (hf : f ∈ [.sender, .receiver, .control, .length, .data])
    (h : IndexFits f i) : ResultReg.shaped { code := .parity, field := f, index := i } = true := by
  rcases h with rfl | rfl | rfl <;> simp_all [ResultReg.shaped]

theorem shaped_nak {f : FieldPos} {i : BitVec 6} (hf : f ∈ [.addrAck, .controlAck, .lengthAck, .dataAck])
    (h : IndexFits f i) : ResultReg.shaped { code := .nak, field := f, index := i } = true := by
  rcases h with rfl | rfl | rfl <;> simp_all [ResultReg.shaped]

/-- The codes that stand without a position (R93, R109). -/
theorem shaped_raised {c : ResCode} (h : c ∉ [.nak, .parity, .length, .dropped]) : (raised c).shaped = true := by
  cases c <;> simp [raised, ResultReg.shaped] at h ⊢

/-- A shaped RESULT that says OK is `(OK, NONE, 0)`. -/
theorem eq_okay_of_shaped {r : ResultReg} (h : r.shaped = true) (hc : r.code = .ok) : r = ResultReg.okay := by
  obtain ⟨c, f, i⟩ := r
  obtain rfl : c = .ok := hc
  simp only [ResultReg.shaped, Bool.and_eq_true, Bool.or_eq_true, decide_eq_true_eq] at h
  obtain ⟨rfl, h⟩ := h
  simpa [ResultReg.okay] using h

theorem txAck_raises (u : Bool) {f : FieldPos} {i : BitVec 6} (s : State)
    (hf : f ∈ [.addrAck, .controlAck, .lengthAck, .dataAck]) (h : IndexFits f i) :
    (txAck u f i s).Raises (·.shaped = true) := by
  unfold txAck
  split
  · dsimp only
    split
    · trivial
    · exact shaped_nak hf h
  · trivial

theorem txHead_raises (u : Bool) (snd rcv : Addr) (ctl : BitVec 4) (len : BitVec 8) (s : State) :
    (txHead u snd rcv ctl len s).Raises (·.shaped = true) :=
  (txAck_raises u _ (by decide) (.inr (.inr rfl))).andThen fun _ _ =>
    (txAck_raises u _ (by decide) (.inr (.inr rfl))).andThen fun _ _ =>
      txAck_raises u _ (by decide) (.inr (.inr rfl))

theorem txData_raises (u : Bool) (d : Byte) (i : BitVec 6) (s : State) :
    (txData u d i s).Raises (·.shaped = true) :=
  txAck_raises u _ (by decide) (.inr (.inl rfl))

theorem txPayload_raises (u : Bool) (pay : Memory) (k i : Nat) (s : State) :
    (txPayload u pay k i s).Raises (·.shaped = true) := by
  induction k generalizing i s with
  | zero => trivial
  | succ k ih => exact (txData_raises u _ _ _).andThen fun _ _ => ih _ _

theorem txFrame_raises (f : Frame) (s : State) : (txFrame f s).Raises (·.shaped = true) :=
  (txHead_raises _ _ _ _ _ s).andThen fun _ _ => txPayload_raises _ _ _ _ _

/-- A step that fails by DESYNC only, at a position of a frame (R231). -/
theorem desync_atPos_raises {α : Type} {r : Res α} {f : FieldPos} {i : BitVec 6} (hr : r.Raises (· = raised .desync))
    (h : IndexFits f i) : (r.atPos f i).Raises (·.shaped = true) :=
  hr.atPos fun _ he => he ▸ shaped_desync h

theorem rxGroup_raises (n : Nat) {f : FieldPos} {i : BitVec 6} (s : State)
    (hf : f ∈ [.sender, .receiver, .control, .length, .data]) (h : IndexFits f i) :
    (rxGroup n f i s).Raises (·.shaped = true) := by
  refine (desync_atPos_raises (rxField_raises n _) h).andThen fun v t =>
    (desync_atPos_raises (rxBit_raises t) h).andThen fun p u => ?_
  split
  · trivial
  · exact shaped_parity hf h

theorem rxAck_raises (u forme : Bool) {f : FieldPos} {i : BitVec 6} (s : State) (h : IndexFits f i) :
    (rxAck u forme f i s).Raises (·.shaped = true) := by
  unfold rxAck
  split
  · split
    · exact desync_atPos_raises (ackSend_raises _) h
    · exact (desync_atPos_raises (rxBit_raises _) h).andThen fun _ _ => trivial
  · trivial

theorem rxPayload_raises (u forme : Bool) (k i : Nat) (s : State) :
    (rxPayload u forme k i s).Raises (·.shaped = true) := by
  induction k generalizing i s with
  | zero => trivial
  | succ k ih =>
    exact (rxGroup_raises 8 _ (by decide) (.inl rfl)).andThen fun _ _ =>
      (rxAck_raises u forme _ (.inr (.inl rfl))).andThen fun _ _ => ih _ _

theorem rxFrame_raises (s : State) : (rxFrame s).Raises (·.shaped = true) := by
  have hgroup {n : Nat} {f : FieldPos} (t : State) (hf : f ∈ [.sender, .receiver, .control, .length, .data]) :=
    rxGroup_raises n (i := 0#6) t hf (.inr (.inr rfl))
  have hack {u forme : Bool} {f : FieldPos} (t : State) := rxAck_raises u forme (f := f) (i := 0#6) t (.inr (.inr rfl))
  refine ((rxStart_raises _).atPos (by decide)).andThen fun _ t =>
    (desync_atPos_raises (rxBit_raises _) (.inr (.inr rfl))).andThen fun m t =>
    (hgroup _ (by decide)).andThen fun v t => (hgroup _ (by decide)).andThen fun v t => (hack _).andThen fun _ t =>
    (hgroup t (by decide)).andThen fun v t => (hack _).andThen fun _ t =>
    (hgroup t (by decide)).andThen fun v t => ?_
  split
  · exact (hack _).andThen fun _ _ => (rxPayload_raises _ _ _ _ _).andThen fun _ _ => trivial
  · rfl

/-! ## The length of a frame that has been read -/

theorem rxAck_returns_wfr (u forme : Bool) (f : FieldPos) (i : BitVec 6) (s : State) :
    (rxAck u forme f i s).Returns fun _ t => t.wfr = s.wfr :=
  ((writes_rxAck u forme f i s).imp fun _ h => congrArg Prod.snd (h .work (by decide))).returns

/-- The data groups leave the length in WF (R150). -/
theorem rxPayload_length (u forme : Bool) (k i : Nat) (s : State) :
    (rxPayload u forme k i s).Returns fun _ t => t.wfr.frame.length = s.wfr.frame.length := by
  induction k generalizing i s with
  | zero => exact rfl
  | succ k ih =>
    have hgroup := ((writes_rxGroup 8 .data (BitVec.ofNat 6 i) { s with idx := BitVec.ofNat 6 i }).imp
      fun _ h => congrArg Prod.snd (h .work (by decide))).returns
    refine hgroup.andThen fun v t (ht : t.wfr = s.wfr) => (rxAck_returns_wfr _ _ _ _ _).andThen fun _ w hw => ?_
    have hw' : w.wfr.frame.length = s.wfr.frame.length := by rw [hw, ← ht]; rfl
    exact hw' ▸ ih _ w

/-- A frame that has been read has a legal length, and WF holds it (R150, R153). -/
theorem rxFrame_length (s : State) :
    (rxFrame s).Returns fun len t => lengthLegal len = true ∧ t.wfr.frame.length.toNat = len := by
  refine .after _ fun _ t => .after _ fun _ t => .after _ fun _ t => .after _ fun _ t => .after _ fun _ t =>
    .after _ fun _ t => .after _ fun _ t => .after _ fun v t => ?_
  split
  next hlegal =>
    refine (rxAck_returns_wfr _ _ _ _ _).andThen fun _ t ht => (rxPayload_length _ _ _ _ t).andThen fun _ u hu => ?_
    have hfits : (v.setWidth 6).toNat = v.toNat := by
      have := ((lengthLegal_iff _).mp hlegal).2
      rw [BitVec.toNat_setWidth]
      omega
    refine ⟨hlegal, ?_⟩
    rw [hu, ht]
    exact hfits
  · trivial

/-! ## What a frame operation can do, said once -/

theorem Advances.busFree (s : State) : Advances s (busFree s).2 := by
  have h := Advances.waitFor .dominant s.cfg.tBit s
  rcases waitFor_cases .dominant s.cfg.tBit s with ⟨e, -, -, -, hw⟩ | ⟨-, hw⟩ <;>
    simp only [Machine.busFree, hw] at h ⊢ <;> exact h

theorem writes_busFree (s : State) : WritesOnly [.now] s (busFree s).2 := by
  have h := writes_waitFor .dominant s.cfg.tBit s
  rcases waitFor_cases .dominant s.cfg.tBit s with ⟨e, -, -, -, hw⟩ | ⟨-, hw⟩ <;>
    simp only [busFree, hw] at h ⊢ <;> exact h

/-- Everything SEND_FRAME can do (R146): an illegal length is refused; else it runs masked and exits with a result. -/
theorem sendFrame_cases (s : State) :
    sendFrame s = emit (raised .badlen) (report .badlen s) ∨
      ∃ r t, sendFrame s = exitFrame s.masked r t ∧ r.shaped = true ∧ Advances { s with masked := true } t ∧
        WritesOnly [.now, .line, .seq, .field, .dur, .work] { s with masked := true } t := by
  unfold sendFrame
  by_cases hlen : lengthLegal s.txf.length.toNat = true
  · refine .inr ?_
    rw [if_pos hlen]
    have ha := Advances.busFree { s with masked := true }
    have hw := writes_busFree { s with masked := true }
    dsimp only
    split
    next t hbus =>
      rw [hbus] at ha hw
      exact ⟨_, _, rfl, shaped_raised (by decide), ha, hw.mono⟩
    next t hbus =>
      rw [hbus] at ha hw
      have hsent := Advances.txFrame t.txf t
      have hwrites := writes_txFrame t.txf t
      have hraises := txFrame_raises t.txf t
      split
      next e u hframe =>
        rw [hframe] at hsent hwrites hraises
        exact ⟨_, _, rfl, hraises, ha.trans hsent, (hw.append hwrites).mono⟩
      next u hframe =>
        rw [hframe] at hsent hwrites
        exact ⟨_, _, rfl, rfl, (ha.trans hsent).trans (Advances.scratch _ _ _ _ _ _),
          ((hw.append hwrites).append (writes_seq _ _)).mono⟩
  · exact .inl (if_neg hlen)

/-- Everything READ_FRAME can do (R150): it runs masked with RXF invalid, and exits with an error, or with the frame
of WF taken into RXF. -/
theorem readFrame_cases (s : State) :
    ∃ t, Advances { s with masked := true, rxf.valid := false } t ∧
      WritesOnly (.work :: readParts) { s with masked := true, rxf.valid := false } t ∧
      ((∃ e, readFrame s = exitFrame s.masked e t ∧ e.shaped = true) ∨
        ∃ len, lengthLegal len = true ∧ t.wfr.frame.length.toNat = len ∧
          readFrame s = exitFrame s.masked ResultReg.okay
            { t with rxf := acceptFrame t.rxf t.wfr.frame len, seq := .finished opReadFrame }) := by
  unfold readFrame
  have ha := Advances.rxFrame { s with masked := true, rxf.valid := false }
  have hw := writes_rxFrame { s with masked := true, rxf.valid := false }
  have hraises := rxFrame_raises { s with masked := true, rxf.valid := false }
  have hlength := rxFrame_length { s with masked := true, rxf.valid := false }
  dsimp only
  split
  next e t hframe =>
    rw [hframe] at ha hw hraises
    exact ⟨t, ha, hw, .inl ⟨e, rfl, hraises⟩⟩
  next len t hframe =>
    rw [hframe] at ha hw hlength
    exact ⟨t, ha, hw, .inr ⟨len, hlength.1, hlength.2, rfl⟩⟩

/-! ## RESULT carries a position that its code allows, after every operation -/

theorem sendFrame_result_shaped (s : State) : (sendFrame s).result.shaped = true := by
  rcases sendFrame_cases s with h | ⟨r, t, h, hr, -⟩ <;> rw [h]
  · exact shaped_raised (by decide)
  · rwa [exitFrame_result]

theorem readFrame_result_shaped (s : State) : (readFrame s).result.shaped = true := by
  obtain ⟨t, -, -, ⟨e, h, he⟩ | ⟨len, -, -, h⟩⟩ := readFrame_cases s <;> rw [h, exitFrame_result]
  · exact he
  · rfl

theorem report_shaped {c : ResCode} (s : State) (h : c ∉ [.nak, .parity, .length, .dropped] := by decide) :
    (report c s).result.shaped = true :=
  shaped_raised h

theorem pushCode_reported (b : Bool) : pushCode b ∉ [.nak, .parity, .length, .dropped] := by
  cases b <;> decide

theorem applyActionOp_result_shaped (a : Byte) (s : State) : (applyActionOp a s).result.shaped = true := by
  unfold applyActionOp
  split
  · split <;> exact report_shaped _
  · exact report_shaped _

theorem respondOp_result_shaped (a : Byte) (s : State) : (respondOp a s).result.shaped = true := by
  unfold respondOp
  split
  · split
    · exact report_shaped _
    · exact report_shaped _ (pushCode_reported _)
  · exact report_shaped _

theorem buildStatusOp_result_shaped (s : State) : (buildStatusOp s).result.shaped = true := by
  unfold buildStatusOp
  split
  · exact report_shaped _ (pushCode_reported _)
  · exact report_shaped _

/-- RESULT is that of the last attempt, a dropped frame too (R209). -/
theorem attempts_result_shaped (k : Nat) {s : State} (h : s.result.shaped = true) :
    (attempts k s).result.shaped = true := by
  induction k generalizing s with
  | zero => exact h
  | succ k ih =>
    unfold attempts
    dsimp only
    split
    · exact sendFrame_result_shaped _
    · exact ih (sendFrame_result_shaped _)

theorem drainOp_result_shaped (s : State) : (drainOp s).result.shaped = true := by
  unfold drainOp
  split
  · exact report_shaped _
  · unfold maxAttempts attempts
    dsimp only
    split
    · exact sendFrame_result_shaped _
    · exact attempts_result_shaped 2 (sendFrame_result_shaped _)

theorem receiveBranch_result_shaped (s : State) : (receiveBranch s).result.shaped = true := by
  unfold receiveBranch
  dsimp only
  split
  · exact respondOp_result_shaped _ _
  · exact readFrame_result_shaped _

theorem runStepOp_result_shaped (s : State) : (runStepOp s).result.shaped = true := by
  unfold runStepOp
  split
  · exact receiveBranch_result_shaped _
  · split
    · exact drainOp_result_shaped _
    · exact report_shaped _

theorem finish_result_shaped {α : Type} {r : Res α} (h : r.Raises (·.shaped = true)) (k : α → State → State) :
    (finish r k).result.shaped = true := by
  cases r with
  | ok a t => rfl
  | err e t => exact h

theorem finishWire_result_shaped {r : Res Unit} (h : r.Raises (·.shaped = true)) :
    (finishWire r).result.shaped = true :=
  finish_result_shaped h _

theorem headOp_result_shaped (u : Bool) (snd rcv : Addr) (ctl : BitVec 4) (len : BitVec 8) (s : State) :
    (headOp u snd rcv ctl len s).result.shaped = true := by
  unfold headOp
  split
  · exact finishWire_result_shaped (txHead_raises u snd rcv ctl len s)
  · exact report_shaped s

/-- A DESYNC of a codec operation on its own is shaped. -/
theorem raised_desync_shaped {α : Type} {r : Res α} (h : r.Raises (· = raised .desync)) :
    r.Raises (·.shaped = true) :=
  h.imp fun _ he => he ▸ shaped_raised (by decide)

theorem rxStart_raises_shaped (s : State) : (rxStart s).Raises (·.shaped = true) :=
  (rxStart_raises s).imp (by decide)

/-! ## The state after an instruction -/

/-- The state that an instruction leads to: no meaning ends in a fault or a refusal (R230). -/
def after (i : Instr) (s : State) : State :=
  match exec i s with
  | .next t => t
  | .fault _ => s
  | .refused _ => s

theorem exec_eq_after (i : Instr) (s : State) : exec i s = .next (after i s) := by
  cases i <;> rfl

theorem exec_eq_next_iff {i : Instr} {s t : State} : exec i s = .next t ↔ t = after i s := by
  rw [exec_eq_after, Host.Outcome.next.injEq, eq_comm]

/-- Everything TX_FIELD can do (R112, R97). -/
theorem after_txField (n : BitVec 4) (v : BitVec 12) (s : State) :
    after (.txField n v) s = report .ok (txField n.toNat v s) ∨ after (.txField n v) s = report .badop s :=
  ite_eq_or_eq _ _ _

/-- Everything RX_FIELD can do (R114, R97). -/
theorem after_rxField (n : BitVec 4) (s : State) :
    after (.rxField n) s = finish (rxField n.toNat s) (fun v t => { t with val := v }) ∨
      after (.rxField n) s = report .badop s :=
  ite_eq_or_eq _ _ _

/-- Everything BUS_FREE can do (R145). -/
theorem after_busFree (s : State) :
    after .busFree s = report .ok { (busFree s).2 with val := bitVal (busFree s).1 } ∨
      after .busFree s =
        emit (raised .busy) (report .busy { (busFree s).2 with val := bitVal (busFree s).1 }) :=
  ite_eq_or_eq _ _ _

/-- Everything Q_POP can do (R207). -/
theorem after_qPop (s : State) :
    after .qPop s = report .empty s ∨ s.qw ≠ s.qr ∧ after .qPop s = report .ok (popHead s) := by
  by_cases h : s.qw = s.qr
  · exact .inl (if_pos h)
  · exact .inr ⟨h, if_neg h⟩

/-- Everything WR_TXF can do (R96). -/
theorem after_wrTxf (sel : BitVec 6) (v : BitVec 12) (s : State) :
    (∃ f, writeTxf s.txf sel v = some f ∧ after (.wrTxf sel v) s = report .ok { s with txf := f }) ∨
      after (.wrTxf sel v) s = report .badop s := by
  simp only [after, exec, execWrTxf]
  cases writeTxf s.txf sel v with
  | none => exact .inr rfl
  | some f => exact .inl ⟨f, rfl, rfl⟩

/-- Everything RD_REG can do (R96). -/
theorem after_rdReg (sel : BitVec 8) (s : State) :
    ∃ v, after (.rdReg sel) s = report .ok { s with val := v } ∨
      after (.rdReg sel) s = report .badop { s with val := v } := by
  simp only [after, exec, execRdReg]
  cases readReg s sel with
  | none => exact ⟨0#12, .inr rfl⟩
  | some v => exact ⟨v, .inl rfl⟩

theorem after_result_shaped (i : Instr) (s : State) : (after i s).result.shaped = true := by
  cases i with
  | nop | txBit _ | txStart | ackRead | mask | dispatch | tick | symbol1 | symbol0 | symbolStart =>
    exact report_shaped _
  | reserved1A | reserved1B | reserved1C | reserved1D | reserved1E | reserved1F => exact report_shaped s
  | unmask p => exact report_shaped (restoreMask p s)
  | txField n v => rcases after_txField n v s with h | h <;> rw [h] <;> exact report_shaped _
  | rxBit => exact finish_result_shaped (raised_desync_shaped (rxBit_raises s)) _
  | rxField n =>
    rcases after_rxField n s with h | h <;> rw [h]
    · exact finish_result_shaped (raised_desync_shaped (rxField_raises _ s)) _
    · exact report_shaped s
  | rxStart => exact finish_result_shaped (rxStart_raises_shaped s) _
  | ackSend => exact finish_result_shaped (raised_desync_shaped (ackSend_raises s)) _
  | busFree =>
    rcases after_busFree s with h | h <;> rw [h]
    · exact report_shaped _
    · exact shaped_raised (by decide)
  | sendFrame => exact sendFrame_result_shaped s
  | readFrame => exact readFrame_result_shaped s
  | applyAction a => exact applyActionOp_result_shaped a s
  | respond a => exact respondOp_result_shaped a s
  | buildStatus => exact buildStatusOp_result_shaped s
  | qPush => exact report_shaped _ (pushCode_reported _)
  | qPop => rcases after_qPop s with h | ⟨-, h⟩ <;> rw [h] <;> exact report_shaped _
  | qDrain => exact drainOp_result_shaped s
  | runStep => exact runStepOp_result_shaped s
  | wrTxf sel v => rcases after_wrTxf sel v s with ⟨f, -, h⟩ | h <;> rw [h] <;> exact report_shaped _
  | rdReg sel => obtain ⟨v, h | h⟩ := after_rdReg sel s <;> rw [h] <;> exact report_shaped _
  | reset => exact (rfl : ResultReg.okay.shaped = true)
  | ackSlot role =>
    cases role with
    | sender => exact report_shaped _
    | receiver => exact finish_result_shaped (raised_desync_shaped (ackSend_raises s)) _
  | frameHeadUnicast snd rcv ctl len => exact headOp_result_shaped _ _ _ _ _ s
  | frameHeadBroadcast snd rcv ctl len => exact headOp_result_shaped _ _ _ _ _ s
  | dataGroupUnicast d => exact finishWire_result_shaped (txData_raises _ d _ s)
  | dataGroupBroadcast d => exact finishWire_result_shaped (txData_raises _ d _ s)

end Sys2Proof.Machine
end

section
/-! SUPPORT. The invariant (`Safe`) through each named update, each shared operation, and each instruction. -/

namespace Sys2Proof.Machine

/-! ## The invariant through the named updates -/

theorem safe_setResult {s : State} (h : Safe s) {r : ResultReg} (hr : r.shaped = true) : Safe (setResult r s) :=
  ⟨h.1, { h.2 with resultShaped := hr }⟩

theorem safe_report {s : State} (h : Safe s) {c : ResCode} (hc : c ∉ [.nak, .parity, .length, .dropped] := by decide) :
    Safe (report c s) :=
  safe_setResult h (shaped_raised hc)

theorem safe_emit {s : State} (h : Safe s) (r : ResultReg) : Safe (emit r s) := ⟨h.1, { h.2 with }⟩

theorem safe_val {s : State} (h : Safe s) (v : BitVec 12) : Safe { s with val := v } := ⟨h.1, { h.2 with }⟩

theorem safe_act {s : State} (h : Safe s) (a : Byte) : Safe { s with act := a } := ⟨h.1, { h.2 with }⟩

theorem safe_att {s : State} (h : Safe s) (a : BitVec 2) : Safe { s with att := a } := ⟨h.1, { h.2 with }⟩

theorem safe_ovfCount {s : State} (h : Safe s) (n : BitVec 16) : Safe { s with ovfCount := n } :=
  ⟨h.1, { h.2 with }⟩

theorem safe_device {s : State} (h : Safe s) (d : DeviceState) (b : Bool) :
    Safe { s with ds := d, respPending := b } :=
  ⟨h.1, { h.2 with }⟩

theorem safe_tickEffect {s : State} (h : Safe s) : Safe (tickEffect s) := safe_device h _ _

theorem safe_masked {s : State} (h : Safe s) : Safe { s with masked := true } :=
  ⟨h.1, { h.2 with latchMasked := fun _ => rfl }⟩

theorem safe_txf {s : State} (h : Safe s) {f : Frame} (hf : f.pay.wf = true) : Safe { s with txf := f } :=
  ⟨h.1, { h.2 with txfMemory := hf }⟩

/-- The core releases the line (R25, R11). -/
theorem safe_release {s : State} (h : Safe s) : Safe (setDrv false s) :=
  ⟨h.1, { h.2 with
    drvReleased := rfl
    logPast := fun p hp => (List.mem_cons.mp hp).elim (fun e => e ▸ Nat.le_refl _) (h.2.logPast p)
    logAgrees := drvAt_cons_le s.now false s.drvLog (Nat.le_refl _) }⟩

theorem safe_scramble {s : State} (h : Safe s) : Safe (scramble s) :=
  ⟨h.1, { h.2 with wfrMemory := freePayload_wf s.draws 32 (Nat.le_refl _) }⟩

theorem safe_abortBus {s : State} (h : Safe s) {r : ResultReg} (hr : r.shaped = true) : Safe (abortBus r s) :=
  safe_scramble (safe_emit (safe_setResult (safe_release h) hr) r)

/-- MASKED restored: a latched tick stays latched only while the section stays masked (R141, R30). -/
theorem safe_restoreMask {s : State} (h : Safe s) (p : Bool) : Safe (restoreMask p s) := by
  rcases restoreMask_cases p s with ⟨-, -, hr⟩ | ⟨hp, hr⟩ <;> rw [hr]
  · exact safe_tickEffect ⟨h.1, { h.2 with latchMasked := nofun }⟩
  · exact ⟨h.1, { h.2 with latchMasked := fun hl => hp.resolve_right (ne_false_of_eq_true hl) }⟩

theorem safe_latchArrivals {s : State} (h : Safe s) (hm : s.masked = true) : Safe (latchArrivals s) :=
  ⟨h.1, { h.2 with latchMasked := fun _ => hm }⟩

theorem safe_deliverTick {s : State} (h : Safe s) : Safe (deliverTick s) := by
  rcases deliverTick_cases s with ⟨hm, hd⟩ | ⟨-, hd⟩ <;> rw [hd]
  · exact ⟨h.1, { h.2 with latchMasked := fun _ => hm }⟩
  · exact safe_tickEffect h

/-- RESET gives every register its reset value (R45, R260). -/
theorem safe_resetBlock {s : State} (h : Safe s) : Safe (resetBlock s) :=
  ⟨h.1,
    { drvReleased := rfl
      seqAtRest := rfl
      queueBounded := by simp [State.queued, resetBlock]
      latchMasked := nofun
      durWidth := Nat.two_pow_pos _
      rxfLength := nofun
      rxfMemory := rfl
      txfMemory := rfl
      wfrMemory := rfl
      slotsCanonical := rfl
      slotMemories := fun _ hp => absurd hp List.not_mem_nil
      resultShaped := rfl
      logPast := (safe_release h).2.logPast
      logAgrees := (safe_release h).2.logAgrees
      timerStarted := Nat.le_refl _ }⟩

/-! ## The invariant through the steps of a bus operation

Inside a frame operation SEQ is not IDLE, all else of the invariant holds: it holds of `seqIdle s`. -/

theorem Advances.safe_seqIdle {s t : State} (a : Advances s t) (h : Safe (seqIdle s)) : Safe (seqIdle t) := by
  obtain ⟨hcfg, hinv⟩ := h
  exact
    ⟨a.cfg ▸ hcfg,
      { drvReleased := a.released hinv.drvReleased
        seqAtRest := rfl
        queueBounded := by
          have hq : t.queued = s.queued := by rw [State.queued, State.queued, a.qw, a.qr]
          exact hq.trans_le (a.cfg ▸ hinv.queueBounded)
        latchMasked := fun hl => a.masked.trans (hinv.latchMasked (a.tickLatch ▸ hl))
        durWidth := a.durWidth hinv.durWidth
        rxfLength := a.rxf ▸ hinv.rxfLength
        rxfMemory := a.rxf ▸ hinv.rxfMemory
        txfMemory := a.txf ▸ hinv.txfMemory
        wfrMemory := a.wfrMemory hinv.wfrMemory
        slotsCanonical := by
          show cellsWf Frame.zero t.cfg.queueCap t.slots = true
          rw [a.cfg, a.slots]
          exact hinv.slotsCanonical
        slotMemories := a.slots ▸ hinv.slotMemories
        resultShaped := a.result ▸ hinv.resultShaped
        logPast := a.logPast hinv.logPast
        logAgrees := a.logAgrees hinv.logPast hinv.logAgrees
        timerStarted := a.timerBase ▸ Nat.le_trans hinv.timerStarted a.time }⟩

theorem seqIdle_of_idle {s : State} (h : s.seq = .idle) : seqIdle s = s := by
  rw [seqIdle, ← h]

/-- Between operations SEQ is at rest already. -/
theorem Safe.seqIdle {s : State} (h : Safe s) : Safe (Machine.seqIdle s) := by
  rwa [seqIdle_of_idle h.2.seqAtRest]

/-- A step that does not write SEQ keeps the whole invariant. -/
theorem Advances.safe {s t : State} {W : List Part} (a : Advances s t) (hw : WritesOnly W s t) (h : Safe s)
    (hW : .seq ∉ W := by decide) : Safe t := by
  have hseq : t.seq = .idle := (hw .seq hW).trans h.2.seqAtRest
  exact seqIdle_of_idle hseq ▸ a.safe_seqIdle h.seqIdle

/-- A frame operation that runs masked may exit with any shaped result (R151, R246). -/
theorem safe_exitFrame {t : State} (h : Safe (seqIdle t)) (hm : t.masked = true) (prev : Bool) {r : ResultReg}
    (hr : r.shaped = true) : Safe (exitFrame prev r t) := by
  have hlatched : Safe (latchArrivals (seqIdle t)) := safe_latchArrivals h hm
  refine safe_restoreMask ?_ prev
  split
  · exact safe_setResult (safe_release hlatched) hr
  · exact safe_abortBus hlatched hr

/-- The end of a stand-alone operation whose step leaves SEQ alone (R109). -/
theorem safe_finish {α : Type} {s : State} {W : List Part} {r : Res α} {k : α → State → State} (h : Safe s)
    (ha : r.Ends (Advances s)) (hw : r.Ends (WritesOnly W s)) (he : r.Raises (·.shaped = true))
    (hk : ∀ a t, Safe t → Safe (k a t)) (hW : .seq ∉ W := by decide) : Safe (finish r k) := by
  cases r with
  | ok a t => exact safe_setResult (hk a t (Advances.safe ha hw h hW)) rfl
  | err e t => exact safe_abortBus (Advances.safe ha hw h hW) he

/-- The end of a group on the wire (R109, R28). -/
theorem safe_finishWire {s : State} {r : Res Unit} (h : Safe s) (ha : r.Ends (Advances s))
    (he : r.Raises (·.shaped = true)) : Safe (finishWire r) := by
  cases r with
  | ok a t => exact safe_setResult (Advances.safe_seqIdle ha h.seqIdle) (rfl : ResultReg.okay.shaped = true)
  | err e t => exact safe_abortBus (Advances.safe_seqIdle ha h.seqIdle) he

theorem safe_headOp {s : State} (h : Safe s) (u : Bool) (snd rcv : Addr) (ctl : BitVec 4) (len : BitVec 8) :
    Safe (headOp u snd rcv ctl len s) := by
  unfold headOp
  split
  · exact safe_finishWire h (Advances.txHead u snd rcv ctl len s) (txHead_raises u snd rcv ctl len s)
  · exact safe_emit (safe_report h) _

/-! ## The invariant through the operations of the transport -/

theorem safe_sendFrame {s : State} (h : Safe s) : Safe (sendFrame s) := by
  rcases sendFrame_cases s with hs | ⟨r, t, hs, hr, ha, -⟩ <;> rw [hs]
  · exact safe_emit (safe_report h) _
  · exact safe_exitFrame (ha.safe_seqIdle (safe_masked h).seqIdle) ha.masked _ hr

/-- The frame of WF taken into RXF (R150, R21). -/
theorem safe_acceptFrame {t : State} (h : Safe (seqIdle t)) {len : Nat} (hlen : lengthLegal len = true)
    (hwork : t.wfr.frame.length.toNat = len) :
    Safe (seqIdle { t with rxf := acceptFrame t.rxf t.wfr.frame len, seq := .finished opReadFrame }) :=
  ⟨h.1, { h.2 with
    rxfLength := fun _ => hwork.symm ▸ hlen
    rxfMemory := Memory.wf_copyPrefix _ _ ((lengthLegal_iff len).mp hlen).2 h.2.rxfMemory }⟩

theorem safe_readFrame {s : State} (h : Safe s) : Safe (readFrame s) := by
  have hstart : Safe { s with masked := true, rxf.valid := false } :=
    ⟨h.1, { (safe_masked h).2 with rxfLength := nofun }⟩
  obtain ⟨t, ha, -, ⟨e, hs, he⟩ | ⟨len, hlen, hwork, hs⟩⟩ := readFrame_cases s
  · rw [hs]
    exact safe_exitFrame (ha.safe_seqIdle hstart.seqIdle) ha.masked _ he
  · rw [hs]
    exact safe_exitFrame (safe_acceptFrame (ha.safe_seqIdle hstart.seqIdle) hlen hwork) ha.masked _ rfl

/-! ## The invariant through the operations of the queue -/

theorem queueCap_of_wf {c : Config} (h : c.wf = true) : 0 < c.queueCap ∧ c.queueCap ≤ 128 := by
  obtain ⟨⟨k, hk⟩, hcap⟩ := (meetsR8_of_wf h).queue
  exact ⟨hk ▸ Nat.two_pow_pos k, hcap⟩

/-- A slot holds a frame whose payload is in canonical form, the zero frame where none is listed (R45, R60). -/
theorem slotRead_wf {q : List (Nat × Frame)} (h : ∀ p ∈ q, p.2.pay.wf = true) (k : Nat) :
    (slotRead q k).pay.wf = true := by
  induction q with
  | nil => rfl
  | cons p q ih =>
    obtain ⟨b, f⟩ := p
    unfold slotRead cellsRead
    split
    · exact h (b, f) List.mem_cons_self
    · exact ih fun p hp => h p (List.mem_cons_of_mem _ hp)

/-- The entries after a write are old ones and the one written. -/
theorem mem_slotWrite {q : List (Nat × Frame)} {k : Nat} {f : Frame} {p : Nat × Frame} (h : p ∈ slotWrite q k f) :
    p = (k, f) ∨ p ∈ q := by
  unfold slotWrite cellsWrite at h
  dsimp only at h
  split at h
  · exact .inr (List.mem_filter.mp h).1
  · exact ((mem_cellsInsert k f _ p).mp h).imp_right fun hp => (List.mem_filter.mp hp).1

theorem safe_push {s : State} (h : Safe s) {f : Frame} (hf : f.pay.wf = true) : Safe (push f s).2 := by
  obtain ⟨hpos, hcap⟩ := queueCap_of_wf h.1
  rcases push_cases f s with ⟨-, hs⟩ | ⟨hfree, hs⟩ <;> rw [hs]
  · exact safe_emit (safe_ovfCount h _) _
  · have hroom : s.queued < s.cfg.queueCap := Nat.lt_of_le_of_ne h.2.queueBounded hfree
    exact ⟨h.1, { h.2 with
      queueBounded := (queued_succ (Nat.lt_of_lt_of_le hroom hcap)).trans_le hroom
      slotsCanonical := cellsWf_write _ _ f (Nat.mod_lt _ hpos) h.2.slotsCanonical
      slotMemories := fun p hp => (mem_slotWrite hp).elim (fun e => e ▸ hf) (h.2.slotMemories p) }⟩

theorem safe_pushTemplate {s : State} (h : Safe s) (t : Nat) : Safe (pushTemplate t s).2 := by
  unfold pushTemplate
  split
  · exact h
  next tp htp =>
    obtain ⟨⟨-, hlen⟩, hpatches⟩ := (meetsR8_of_wf h.1).tables.2 tp (List.mem_of_getElem? htp)
    exact safe_push h (buildFrame_wf _ _ _ _ hlen (fun p hp => Nat.lt_of_lt_of_le (hpatches p hp) hlen)
      (slotRead_wf h.2.slotMemories _))

theorem safe_pushAll {s : State} (h : Safe s) (ts : List Nat) : Safe (pushAll ts s).2 := by
  induction ts generalizing s with
  | nil => exact h
  | cons t ts ih => exact ih (safe_pushTemplate h t)

theorem safe_popHead {s : State} (h : Safe s) (hne : s.qw ≠ s.qr) : Safe (popHead s) :=
  ⟨h.1, { h.2 with
    queueBounded := by
      have hq : (popHead s).queued + 1 = s.queued := queued_pred hne
      have hb : s.queued ≤ (popHead s).cfg.queueCap := h.2.queueBounded
      omega
    txfMemory := slotRead_wf h.2.slotMemories _ }⟩

theorem safe_respondOp {s : State} (h : Safe s) (a : Byte) : Safe (respondOp a s) := by
  unfold respondOp
  split
  · split
    · exact safe_report h
    · exact safe_report (safe_pushAll h _) (pushCode_reported _)
  · exact safe_report h

theorem safe_buildStatusOp {s : State} (h : Safe s) : Safe (buildStatusOp s) := by
  unfold buildStatusOp
  split
  · exact safe_report (safe_device (safe_pushTemplate h _) _ false) (pushCode_reported _)
  · exact safe_report h

theorem safe_dropFrame {s : State} (h : Safe s) : Safe (dropFrame s) := ⟨h.1, { h.2 with }⟩

theorem safe_attempts (k : Nat) {s : State} (h : Safe s) : Safe (attempts k s) := by
  induction k generalizing s with
  | zero => exact safe_dropFrame h
  | succ k ih =>
    have hsent : Safe (sendFrame { s with att := s.att + 1#2 }) := safe_sendFrame (safe_att h _)
    unfold attempts
    dsimp only
    split
    · exact hsent
    · exact ih hsent

theorem safe_drainOp {s : State} (h : Safe s) : Safe (drainOp s) := by
  unfold drainOp
  split
  · exact safe_report h
  next hne => exact safe_attempts _ (safe_att (safe_popHead h hne) _)

/-! ## The invariant through the dispatcher, the device model and the run step -/

theorem safe_applyActionOp {s : State} (h : Safe s) (a : Byte) : Safe (applyActionOp a s) := by
  unfold applyActionOp
  split
  · split
    · exact safe_report h
    · exact safe_report (safe_device h _ _)
  · exact safe_report h

theorem safe_dispatchOp {s : State} (h : Safe s) : Safe (dispatchOp s) :=
  safe_report (safe_val (safe_act h (dispatchAction s)) _) (c := .ok)

theorem safe_receiveBranch {s : State} (h : Safe s) : Safe (receiveBranch s) := by
  unfold receiveBranch
  dsimp only
  split
  · exact safe_respondOp (safe_applyActionOp (safe_dispatchOp (safe_readFrame h)) _) _
  · exact safe_readFrame h

theorem safe_runStepOp {s : State} (h : Safe s) : Safe (runStepOp s) := by
  unfold runStepOp
  split
  · exact safe_receiveBranch h
  · split
    · exact safe_drainOp (safe_buildStatusOp h)
    · exact safe_report h

/-- What WR_TXF makes of the payload (R96). -/
theorem writeTxf_pay {f g : Frame} {sel : BitVec 6} {v : BitVec 12} (h : writeTxf f sel v = some g) :
    g.pay = f.pay ∨ g.pay = f.pay.write (sel.toNat - 32) (v.setWidth 8) := by
  unfold writeTxf at h
  dsimp only at h
  split_ifs at h <;> cases h <;> simp

/-- A field written by WR_TXF keeps the payload in canonical form: an index is at most 31 (R96, R61). -/
theorem writeTxf_wf {f g : Frame} {sel : BitVec 6} {v : BitVec 12} (h : writeTxf f sel v = some g)
    (hf : f.pay.wf = true) : g.pay.wf = true := by
  rcases writeTxf_pay h with hg | hg <;> rw [hg]
  · exact hf
  · exact Memory.wf_write _ _ (by have := sel.isLt; omega) hf

/-! ## Every instruction, every step -/

theorem safe_after {s : State} (h : Safe s) (i : Instr) : Safe (after i s) := by
  cases i with
  | nop | reserved1A | reserved1B | reserved1C | reserved1D | reserved1E | reserved1F => exact safe_report h
  | txBit v => exact safe_report ((Advances.txBit v s).safe (writes_txBit v s) h)
  | txStart => exact safe_report ((Advances.txStart s).safe (writes_txStart s) h)
  | txField n v =>
    rcases after_txField n v s with hs | hs <;> rw [hs]
    · exact safe_report ((Advances.txField _ v s).safe (writes_txField _ v s) h)
    · exact safe_report h
  | rxBit =>
    exact safe_finish h (Advances.rxBit s) (writes_rxBit s) (raised_desync_shaped (rxBit_raises s))
      fun _ _ ht => safe_val ht _
  | rxField n =>
    rcases after_rxField n s with hs | hs <;> rw [hs]
    · exact safe_finish h (Advances.rxField _ s) (writes_rxField _ s) (raised_desync_shaped (rxField_raises _ s))
        fun _ _ ht => safe_val ht _
    · exact safe_report h
  | rxStart =>
    exact safe_finish h (Advances.rxStart s) (writes_rxStart s) (rxStart_raises_shaped s) fun _ _ ht => ht
  | ackRead => exact safe_report (safe_val ((Advances.ackRead s).safe (writes_ackRead s) h) _)
  | ackSend =>
    exact safe_finish h (Advances.ackSend s) (writes_ackSend s) (raised_desync_shaped (ackSend_raises s))
      fun _ _ ht => ht
  | mask => exact safe_report (safe_val (safe_masked h) _)
  | unmask p => exact safe_report (safe_restoreMask h p)
  | busFree =>
    have hfree := safe_val ((Advances.busFree s).safe (writes_busFree s) h) (bitVal (busFree s).1)
    rcases after_busFree s with hs | hs <;> rw [hs]
    · exact safe_report hfree
    · exact safe_emit (safe_report hfree) _
  | sendFrame => exact safe_sendFrame h
  | readFrame => exact safe_readFrame h
  | dispatch => exact safe_dispatchOp h
  | applyAction a => exact safe_applyActionOp h a
  | tick => exact safe_report (safe_tickEffect h)
  | respond a => exact safe_respondOp h a
  | buildStatus => exact safe_buildStatusOp h
  | qPush => exact safe_report (safe_push h h.2.txfMemory) (pushCode_reported _)
  | qPop =>
    rcases after_qPop s with hs | ⟨hne, hs⟩ <;> rw [hs]
    · exact safe_report h
    · exact safe_report (safe_popHead h hne)
  | qDrain => exact safe_drainOp h
  | runStep => exact safe_runStepOp h
  | wrTxf sel v =>
    rcases after_wrTxf sel v s with ⟨f, hf, hs⟩ | hs <;> rw [hs]
    · exact safe_report (safe_txf h (writeTxf_wf hf h.2.txfMemory))
    · exact safe_report h
  | rdReg sel => obtain ⟨v, hs | hs⟩ := after_rdReg sel s <;> rw [hs] <;> exact safe_report (safe_val h v)
  | reset => exact safe_resetBlock h
  | symbol1 => exact safe_report ((Advances.txBit true s).safe (writes_txBit true s) h)
  | symbol0 => exact safe_report ((Advances.txBit false s).safe (writes_txBit false s) h)
  | symbolStart => exact safe_report ((Advances.txStart s).safe (writes_txStart s) h)
  | ackSlot role =>
    cases role with
    | sender => exact safe_report (safe_val ((Advances.ackRead s).safe (writes_ackRead s) h) _)
    | receiver =>
      exact safe_finish h (Advances.ackSend s) (writes_ackSend s) (raised_desync_shaped (ackSend_raises s))
        fun _ _ ht => ht
  | frameHeadUnicast snd rcv ctl len => exact safe_headOp h true snd rcv ctl len
  | frameHeadBroadcast snd rcv ctl len => exact safe_headOp h false snd rcv ctl len
  | dataGroupUnicast d => exact safe_finishWire h (Advances.txData true d _ s) (txData_raises true d _ s)
  | dataGroupBroadcast d => exact safe_finishWire h (Advances.txData false d _ s) (txData_raises false d _ s)

end Sys2Proof.Machine
end

section
/-! SUPPORT. What each instruction writes (`written`), read by part as the rules name the writers; what becomes of the
arrivals (R241); and the statements about the state. -/

namespace Sys2Proof.Machine

/-! ## What the ends of operations write -/

theorem writes_abortBus (e : ResultReg) (s : State) : WritesOnly [.line, .field, .work] s (abortBus e s) :=
  ((((writes_setDrv false s).append (writes_setResult e _)).append (writes_emit e _)).append (writes_scramble _)).mono

/-- MASKED, and a latched tick served when that makes MASKED 0 (R141). -/
def restoreParts (p : Bool) : List Part := if p then [.masked] else [.masked, .tickLatch, .ds, .respPending]

theorem writes_restoreMask (p : Bool) (s : State) : WritesOnly (restoreParts p) s (restoreMask p s) := by
  rcases restoreMask_cases p s with ⟨rfl, -, h⟩ | ⟨-, h⟩ <;> rw [h]
  · exact (((writes_masked false s).append (writes_tickLatch false { s with masked := false })).append
      (writes_tickEffect _)).mono
  · exact (writes_masked p s).mono (by cases p <;> decide)

theorem writes_exitFrame (prev : Bool) (e : ResultReg) (s : State) :
    WritesOnly [.masked, .tickLatch, .arrivals, .ds, .respPending, .line, .seq, .field, .work] s
      (exitFrame prev e s) := by
  have hexit (t : State) (ht : WritesOnly [.line, .field, .work] (latchArrivals s) t) :
      WritesOnly [.masked, .tickLatch, .arrivals, .ds, .respPending, .line, .seq, .field, .work] s
        (restoreMask prev (seqIdle t)) :=
    ((((writes_latchArrivals s).append ht).append (writes_seq .idle t)).append (writes_restoreMask prev _)).mono
      (by cases prev <;> decide)
  refine hexit _ ?_
  split
  · exact ((writes_setDrv false _).append (writes_setResult e _)).mono
  · exact writes_abortBus e _

theorem writes_finish {α : Type} {W : List Part} {s : State} {r : Res α} {k : α → State → State}
    (h : r.Ends (WritesOnly W s)) {V : List Part} (hk : ∀ a t, WritesOnly V t (k a t)) :
    WritesOnly (W ++ (V ++ [.line, .field, .work])) s (finish r k) := by
  cases r with
  | ok a t => exact (WritesOnly.append h ((hk a t).append (writes_setResult _ _))).mono (by simp)
  | err e t => exact (WritesOnly.append h (writes_abortBus e t)).mono (by simp)

theorem writes_finishWire {W : List Part} {s : State} {r : Res Unit} (h : r.Ends (WritesOnly W s)) :
    WritesOnly (W ++ [.line, .field, .work] ++ [.seq]) s (finishWire r) :=
  (writes_finish h fun _ t => WritesOnly.refl t).append (writes_seq .idle _)

/-- A group that has been sent whole ends without an abort (R109). -/
theorem writes_finishWire_ok {W : List Part} {s t : State} (h : WritesOnly W s t) :
    WritesOnly (W ++ [.seq]) s (finishWire (.ok () t)) :=
  (h.append (writes_setResult ResultReg.okay t)).append (writes_seq .idle _) |>.mono (by simp)

/-- A broadcast head is sent whole: nothing acknowledges it (R82). -/
theorem txHead_broadcast (snd rcv : Addr) (ctl : BitVec 4) (len : BitVec 8) (s : State) :
    ∃ t, txHead false snd rcv ctl len s = .ok () t ∧ WritesOnly (groupParts false) s t :=
  ⟨_, rfl, writes_txHead false snd rcv ctl len s⟩

/-- A broadcast data group is sent whole (R83). -/
theorem txData_broadcast (d : Byte) (i : BitVec 6) (s : State) :
    ∃ t, txData false d i s = .ok () t ∧ WritesOnly (groupParts false) s t :=
  ⟨_, rfl, writes_txData false d i s⟩

theorem writes_badlen (s : State) : WritesOnly [] s (emit (raised .badlen) (report .badlen s)) :=
  (writes_report _ s).append (writes_emit _ _)

/-! ## What the operations of the transport and of the queue write -/

/-- SEND_FRAME writes the line, time, the scratch registers, and through a latched tick DS and RESP_PENDING (R146,
R151). -/
def sendParts : List Part := [.now, .line, .arrivals, .tickLatch, .ds, .respPending, .seq, .dur, .field, .work]

theorem writes_sendFrame (s : State) : WritesOnly sendParts s (sendFrame s) := by
  rcases sendFrame_cases s with h | ⟨e, t, h, -, -, hw⟩ <;> rw [h]
  · exact (writes_badlen s).mono
  · refine WritesOnly.restored (r := .masked) ?_ (exitFrame_masked _ _ _)
    exact (((writes_masked true s).append hw).append (writes_exitFrame _ _ _)).mono

/-- READ_FRAME writes PAR and RXF too (R150). -/
def receiveParts : List Part := .par :: .rxf :: sendParts

theorem writes_readFrame (s : State) : WritesOnly receiveParts s (readFrame s) := by
  obtain ⟨t, -, hw, hcases⟩ := readFrame_cases s
  have hread : WritesOnly (.masked :: receiveParts) s t :=
    (((writes_masked true s).append (writes_rxf { s.rxf with valid := false } _)).append hw).mono
  refine WritesOnly.restored (r := .masked) ?_ ?_
  · rcases hcases with ⟨e, h, -⟩ | ⟨len, -, -, h⟩ <;> rw [h]
    · exact (hread.append (writes_exitFrame _ _ _)).mono
    · exact (((hread.append (writes_rxf (acceptFrame t.rxf t.wfr.frame len) t)).append
        (writes_seq (.finished opReadFrame) _)).append (writes_exitFrame _ _ _)).mono
  · rcases hcases with ⟨e, h, -⟩ | ⟨len, -, -, h⟩ <;> rw [h] <;> exact exitFrame_masked _ _ _

theorem writes_push (f : Frame) (s : State) : WritesOnly [.queue] s (push f s).2 := by
  rcases push_cases f s with ⟨-, h⟩ | ⟨-, h⟩ <;> rw [h]
  · exact (writes_queue s.slots s.qw _ s).append (writes_emit _ _)
  · exact writes_queue _ _ s.ovfCount s

theorem writes_pushTemplate (t : Nat) (s : State) : WritesOnly [.queue] s (pushTemplate t s).2 := by
  unfold pushTemplate
  split
  · exact (WritesOnly.refl s).mono
  · exact writes_push _ s

theorem writes_pushAll (ts : List Nat) (s : State) : WritesOnly [.queue] s (pushAll ts s).2 := by
  induction ts generalizing s with
  | nil => exact (WritesOnly.refl s).mono
  | cons t ts ih => exact (writes_pushTemplate t s).trans (ih _)

theorem writes_respondOp (a : Byte) (s : State) : WritesOnly [.queue] s (respondOp a s) := by
  unfold respondOp
  split
  · split
    · exact (writes_report _ s).mono
    · exact (writes_pushAll _ s).append (writes_report _ _)
  · exact (writes_report _ s).mono

theorem writes_buildStatusOp (s : State) : WritesOnly [.queue, .respPending] s (buildStatusOp s) := by
  unfold buildStatusOp
  split
  · exact ((writes_pushTemplate _ s).append (writes_respPending false _)).append (writes_report _ _)
  · exact (writes_report _ s).mono

theorem writes_attempts (k : Nat) (s : State) : WritesOnly (.drops :: sendParts) s (attempts k s) := by
  induction k generalizing s with
  | zero => exact (writes_dropFrame s).mono
  | succ k ih =>
    have hsent : WritesOnly (.drops :: sendParts) s (sendFrame { s with att := s.att + 1#2 }) :=
      (writes_att _ s).append (writes_sendFrame _)
    unfold attempts
    dsimp only
    split
    · exact hsent
    · exact hsent.trans (ih _)

/-- Q_DRAIN pops the head, attempts to send it, and may drop it (R209). -/
def drainParts : List Part := .txf :: .qr :: .drops :: sendParts

theorem writes_drainOp (s : State) : WritesOnly drainParts s (drainOp s) := by
  unfold drainOp
  split
  · exact (writes_report _ s).mono
  · exact (((writes_popHead s).append (writes_att 0#2 _)).append (writes_attempts _ _)).mono

theorem writes_applyActionOp (a : Byte) (s : State) : WritesOnly [.ds, .respPending] s (applyActionOp a s) := by
  unfold applyActionOp
  split
  · split
    · exact (writes_report _ s).mono
    · exact (writes_device _ _ s).append (writes_report _ _)
  · exact (writes_report _ s).mono

theorem writes_dispatchOp (s : State) : WritesOnly [.act, .val] s (dispatchOp s) :=
  ((writes_act (dispatchAction s) s).append (writes_val _ _)).append (writes_report _ _)

/-- After READ_FRAME the receive branch dispatches and responds (R215). -/
def receiveBranchParts : List Part := .act :: .val :: .queue :: receiveParts

theorem writes_receiveBranch (s : State) : WritesOnly receiveBranchParts s (receiveBranch s) := by
  unfold receiveBranch
  dsimp only
  split
  · exact ((((writes_readFrame s).append (writes_dispatchOp _)).append (writes_applyActionOp _ _)).append
      (writes_respondOp _ _)).mono
  · exact (writes_readFrame s).mono

/-- RUN_STEP writes what either of its branches writes (R215). -/
def runStepParts : List Part := drainParts ++ receiveBranchParts

theorem writes_runStepOp (s : State) : WritesOnly runStepParts s (runStepOp s) := by
  unfold runStepOp
  split
  · exact (writes_receiveBranch s).mono
  · split
    · exact ((writes_buildStatusOp s).append (writes_drainOp _)).mono
    · exact (writes_report _ s).mono

theorem writes_headUnicast (snd rcv : Addr) (ctl : BitVec 4) (len : BitVec 8) (s : State) :
    WritesOnly [.now, .line, .seq, .dur, .field, .work] s (headOp true snd rcv ctl len s) := by
  unfold headOp
  split
  · exact (writes_finishWire (writes_txHead true snd rcv ctl len s)).mono
  · exact (writes_badlen s).mono

theorem writes_headBroadcast (snd rcv : Addr) (ctl : BitVec 4) (len : BitVec 8) (s : State) :
    WritesOnly [.now, .line, .seq, .field] s (headOp false snd rcv ctl len s) := by
  unfold headOp
  split
  · obtain ⟨t, ht, hw⟩ := txHead_broadcast snd rcv ctl len s
    exact ht ▸ (writes_finishWire_ok hw).mono
  · exact (writes_badlen s).mono

/-! ## What each instruction writes -/

/-- The parts that an instruction may change. -/
def written : Instr → List Part
  | .nop | .reserved1A | .reserved1B | .reserved1C | .reserved1D | .reserved1E | .reserved1F => []
  | .txBit _ | .txStart | .symbol1 | .symbol0 | .symbolStart => [.now, .line]
  | .txField _ _ => [.now, .line, .field]
  | .rxBit | .rxField _ => [.now, .line, .par, .dur, .field, .work, .val]
  | .rxStart => [.now, .line, .dur, .field, .work]
  | .ackRead | .ackSlot .sender => [.now, .line, .dur, .val]
  | .ackSend | .ackSlot .receiver => [.now, .line, .field, .work]
  | .mask => [.masked, .val]
  | .unmask p => restoreParts p
  | .busFree => [.now, .val]
  | .sendFrame => sendParts
  | .readFrame => receiveParts
  | .dispatch => [.act, .val]
  | .applyAction _ | .tick => [.ds, .respPending]
  | .respond _ | .qPush => [.queue]
  | .buildStatus => [.queue, .respPending]
  | .qPop => [.txf, .qr]
  | .qDrain => drainParts
  | .runStep => runStepParts
  | .wrTxf _ _ => [.txf]
  | .rdReg _ => [.val]
  | .reset =>
    [.rxf, .txf, .ds, .respPending, .queue, .qr, .drops, .act, .val, .par, .masked, .tickLatch, .timerBase, .line, .seq,
      .dur, .field, .work]
  | .frameHeadUnicast _ _ _ _ | .dataGroupUnicast _ => [.now, .line, .seq, .dur, .field, .work]
  | .frameHeadBroadcast _ _ _ _ | .dataGroupBroadcast _ => [.now, .line, .seq, .field]

theorem writes_reportAfter {W : List Part} {s t : State} (h : WritesOnly W s t) (c : ResCode) :
    WritesOnly W s (report c t) :=
  (h.append (writes_report c t)).mono (by simp)

theorem writes_after (i : Instr) (s : State) : WritesOnly (written i) s (after i s) := by
  cases i with
  | nop | reserved1A | reserved1B | reserved1C | reserved1D | reserved1E | reserved1F => exact writes_report _ s
  | txBit v => exact writes_reportAfter (writes_txBit v s) .ok
  | symbol1 => exact writes_reportAfter (writes_txBit true s) .ok
  | symbol0 => exact writes_reportAfter (writes_txBit false s) .ok
  | txStart | symbolStart => exact writes_reportAfter (writes_txStart s) .ok
  | txField n v =>
    rcases after_txField n v s with h | h <;> rw [h]
    · exact writes_reportAfter (writes_txField _ v s) .ok
    · exact (writes_report _ s).mono (List.nil_subset _)
  | rxBit => exact (writes_finish (writes_rxBit s) fun _ t => writes_val _ t).mono
  | rxField n =>
    rcases after_rxField n s with h | h <;> rw [h]
    · exact (writes_finish (writes_rxField _ s) fun _ t => writes_val _ t).mono (W := written .rxBit)
    · exact (writes_report _ s).mono (List.nil_subset _)
  | rxStart => exact (writes_finish (writes_rxStart s) fun _ t => WritesOnly.refl t).mono
  | ackRead => exact writes_reportAfter ((writes_ackRead s).append (writes_val _ _)) .ok
  | ackSend => exact (writes_finish (writes_ackSend s) fun _ t => WritesOnly.refl t).mono
  | ackSlot role =>
    cases role with
    | sender => exact writes_reportAfter ((writes_ackRead s).append (writes_val _ _)) .ok
    | receiver => exact (writes_finish (writes_ackSend s) fun _ t => WritesOnly.refl t).mono
  | mask => exact (writes_reportAfter ((writes_val (bitVal s.masked) s).append (writes_masked true _)) .ok).mono
  | unmask p => exact writes_reportAfter (writes_restoreMask p s) .ok
  | busFree =>
    have hfree := (writes_busFree s).append (writes_val (bitVal (busFree s).1) _)
    rcases after_busFree s with h | h <;> rw [h]
    · exact writes_reportAfter hfree .ok
    · exact (writes_reportAfter hfree .busy).append (writes_emit _ _)
  | sendFrame => exact writes_sendFrame s
  | readFrame => exact writes_readFrame s
  | dispatch => exact writes_dispatchOp s
  | applyAction a => exact writes_applyActionOp a s
  | tick => exact writes_reportAfter (writes_tickEffect s) .ok
  | respond a => exact writes_respondOp a s
  | buildStatus => exact writes_buildStatusOp s
  | qPush => exact writes_reportAfter (writes_push s.txf s) _
  | qPop =>
    rcases after_qPop s with h | ⟨-, h⟩ <;> rw [h]
    · exact (writes_report _ s).mono
    · exact writes_reportAfter (writes_popHead s) .ok
  | qDrain => exact writes_drainOp s
  | runStep => exact writes_runStepOp s
  | wrTxf sel v =>
    rcases after_wrTxf sel v s with ⟨f, -, h⟩ | h <;> rw [h]
    · exact writes_reportAfter (writes_txf f s) .ok
    · exact (writes_report _ s).mono (List.nil_subset _)
  | rdReg sel => obtain ⟨v, h | h⟩ := after_rdReg sel s <;> rw [h] <;> exact writes_reportAfter (writes_val v s) _
  | reset => exact writes_resetBlock s
  | frameHeadUnicast snd rcv ctl len => exact writes_headUnicast snd rcv ctl len s
  | frameHeadBroadcast snd rcv ctl len => exact writes_headBroadcast snd rcv ctl len s
  | dataGroupUnicast d =>
    exact (writes_finishWire (writes_txData true d _ s)).mono (W := [.now, .line, .seq, .dur, .field, .work])
  | dataGroupBroadcast d =>
    obtain ⟨t, ht, hw⟩ := txData_broadcast d 0#6 s
    show WritesOnly _ s (finishWire (txData false d 0#6 s))
    rw [ht]
    exact (writes_finishWire_ok hw).mono (W := [.now, .line, .seq, .field])

/-! ## The writers of each part -/

/-- The writers that the rules name for a part of the state: R21 to R25, R28 to R30, R32, R33, R39 to R42. -/
def Part.Writers : Part → Instr → Prop
  | .outside, _ => False
  | .arrivals, i => i ∈ [Instr.sendFrame, .readFrame, .qDrain, .runStep]
  | .rxf, i => i ∈ [Instr.readFrame, .runStep, .reset]
  | .txf, i => i ∈ [Instr.qPop, .qDrain, .runStep, .reset] ∨ ∃ sel v, i = .wrTxf sel v
  | .ds, i =>
    i ∈ [Instr.tick, .unmask false, .sendFrame, .readFrame, .qDrain, .runStep, .reset] ∨ ∃ a, i = .applyAction a
  | .respPending, i =>
    i ∈ [Instr.tick, .unmask false, .sendFrame, .readFrame, .buildStatus, .qDrain, .runStep, .reset] ∨
      ∃ a, i = .applyAction a
  | .queue, i => i ∈ [Instr.buildStatus, .qPush, .runStep, .reset] ∨ ∃ a, i = .respond a
  | .qr, i => i ∈ [Instr.qPop, .qDrain, .runStep, .reset]
  | .drops, i => i ∈ [Instr.qDrain, .runStep, .reset]
  | .act, i => i ∈ [Instr.dispatch, .runStep, .reset]
  | .val, i =>
    i ∈ [Instr.rxBit, .ackRead, .mask, .busFree, .dispatch, .runStep, .reset, .ackSlot .sender] ∨
      (∃ n, i = .rxField n) ∨ ∃ sel, i = .rdReg sel
  | .par, i => i ∈ [Instr.rxBit, .readFrame, .runStep, .reset] ∨ ∃ n, i = .rxField n
  | .masked, i => i ∈ [Instr.mask, .reset] ∨ ∃ p, i = .unmask p
  | .tickLatch, i => i ∈ [Instr.unmask false, .sendFrame, .readFrame, .qDrain, .runStep, .reset]
  | .timerBase, i => i = .reset
  | .now, i =>
    i ∈ [Instr.txStart, .rxBit, .rxStart, .ackRead, .ackSend, .busFree, .sendFrame, .readFrame, .qDrain, .runStep] ∨
      (∃ v, i = .txBit v) ∨ (∃ n v, i = .txField n v) ∨ (∃ n, i = .rxField n) ∨ onWire i = true
  | .line, i =>
    i ∈ [Instr.txStart, .rxBit, .rxStart, .ackRead, .ackSend, .sendFrame, .readFrame, .qDrain, .runStep, .reset] ∨
      (∃ v, i = .txBit v) ∨ (∃ n v, i = .txField n v) ∨ (∃ n, i = .rxField n) ∨ onWire i = true
  | .seq, i => i ∈ [Instr.sendFrame, .readFrame, .qDrain, .runStep, .reset] ∨ onWireGroup i = true
  | .dur, i =>
    i ∈ [Instr.rxBit, .rxStart, .ackRead, .sendFrame, .readFrame, .qDrain, .runStep, .reset, .ackSlot .sender] ∨
      (∃ n, i = .rxField n) ∨ (onWireGroup i = true ∧ groupHasSlots i = true)
  | .field, i =>
    i ∈ [Instr.rxBit, .rxStart, .ackSend, .sendFrame, .readFrame, .qDrain, .runStep, .reset, .ackSlot .receiver] ∨
      (∃ n v, i = .txField n v) ∨ (∃ n, i = .rxField n) ∨ onWireGroup i = true
  | .work, i =>
    i ∈ [Instr.rxBit, .rxStart, .ackSend, .sendFrame, .readFrame, .qDrain, .runStep, .reset, .ackSlot .receiver] ∨
      (∃ n, i = .rxField n) ∨ (onWireGroup i = true ∧ groupHasSlots i = true)

/-- The table of what each instruction writes, read by part: only named writers. -/
theorem writers_of_mem_written (i : Instr) : ∀ r ∈ written i, r.Writers i := by
  rw [← List.forall_iff_forall_mem]
  cases i with
  | nop | reserved1A | reserved1B | reserved1C | reserved1D | reserved1E | reserved1F => exact trivial
  | ackSlot role => cases role <;> simp only [written, List.Forall] <;> simp [Part.Writers, onWire]
  | unmask p =>
    cases p <;> simp only [written, restoreParts, reduceIte, Bool.false_eq_true, List.Forall] <;>
      simp [Part.Writers]
  | sendFrame =>
    simp only [written, sendParts, List.Forall]
    simp [Part.Writers]
  | readFrame =>
    simp only [written, receiveParts, sendParts, List.Forall]
    simp [Part.Writers]
  | qDrain =>
    simp only [written, drainParts, sendParts, List.Forall]
    simp [Part.Writers]
  | runStep =>
    simp only [written, runStepParts, drainParts, receiveBranchParts, receiveParts, sendParts, List.cons_append,
      List.nil_append, List.Forall]
    simp [Part.Writers]
  | _ =>
    simp only [written, List.Forall]
    simp [Part.Writers, onWire, onWireGroup, groupHasSlots]

/-- A part that an instruction has changed names it among its writers. -/
theorem writers_of_ne {i : Instr} {s : State} (r : Part) (h : r.read (after i s) ≠ r.read s) : r.Writers i :=
  writers_of_mem_written i r ((writes_after i s).mem_of_ne h)

/-- Two pairs that differ in a component. -/
theorem pair_ne {α β : Type} {a a' : α} {b b' : β} (h : a ≠ a' ∨ b ≠ b') : (a, b) ≠ (a', b') :=
  mt Prod.mk.inj (not_and_or.mpr h)

theorem after_outside (i : Instr) (s : State) :
    (after i s).cfg = s.cfg ∧ (after i s).env = s.env ∧ (after i s).inputs = s.inputs := by
  have h : Part.outside.read (after i s) = Part.outside.read s := not_not.mp (writers_of_ne .outside)
  simpa [Part.read] using h

/-! ## The arrivals of a frame operation (R141, R241) -/

/-- Time passes, and the arrivals of the ticks that have passed are taken; or nothing of both. -/
def TakesArrivals (s t : State) : Prop :=
  s.now ≤ t.now ∧
    (t.arrivals = s.arrivals ∧ t.now = s.now ∨ t.arrivals = s.arrivals.filter fun a => decide (t.now ≤ a))

theorem TakesArrivals.trans {s t u : State} (a : TakesArrivals s t) (b : TakesArrivals t u) : TakesArrivals s u := by
  obtain ⟨hst, ha⟩ := a
  obtain ⟨htu, hb⟩ := b
  refine ⟨hst.trans htu, ?_⟩
  rcases hb with ⟨hb, hn⟩ | hb <;> rw [hb]
  · rwa [hn]
  · rcases ha with ⟨ha, -⟩ | ha <;> rw [ha]
    · exact .inr rfl
    · refine .inr ?_
      rw [List.filter_filter]
      refine List.filter_congr fun x _ => ?_
      simp only [← Bool.decide_and, decide_eq_decide]
      exact and_iff_left_of_imp htu.trans

/-- An operation that touches neither the clock nor the arrivals (R14). -/
theorem WritesOnly.takesArrivals {W : List Part} {s t : State} (h : WritesOnly W s t) (ha : .arrivals ∉ W := by decide)
    (hn : .now ∉ W := by decide) : TakesArrivals s t :=
  have hnow : t.now = s.now := h .now hn
  ⟨hnow.ge, .inl ⟨h .arrivals ha, hnow⟩⟩

theorem takesArrivals_exitFrame {s t : State} (hn : s.now ≤ t.now) (ha : t.arrivals = s.arrivals) (prev : Bool)
    (r : ResultReg) : TakesArrivals s (exitFrame prev r t) := by
  refine ⟨by rwa [exitFrame_now], .inr ?_⟩
  rw [exitFrame_arrivals, exitFrame_now, ha]
  exact List.filter_congr fun x _ => by simp [← decide_not]

theorem takesArrivals_sendFrame (s : State) : TakesArrivals s (sendFrame s) := by
  rcases sendFrame_cases s with h | ⟨r, t, h, -, a, -⟩ <;> rw [h]
  · exact (writes_badlen s).takesArrivals
  · exact takesArrivals_exitFrame a.time a.arrivals _ _

theorem takesArrivals_readFrame (s : State) : TakesArrivals s (readFrame s) := by
  obtain ⟨t, a, -, ⟨e, h, -⟩ | ⟨len, -, -, h⟩⟩ := readFrame_cases s <;> rw [h]
  · exact takesArrivals_exitFrame a.time a.arrivals _ _
  · exact takesArrivals_exitFrame (s := s)
      (t := { t with rxf := acceptFrame t.rxf t.wfr.frame len, seq := .finished opReadFrame }) a.time a.arrivals _ _

theorem takesArrivals_attempts (k : Nat) (s : State) : TakesArrivals s (attempts k s) := by
  induction k generalizing s with
  | zero => exact (writes_dropFrame s).takesArrivals
  | succ k ih =>
    have hsent : TakesArrivals s (sendFrame { s with att := s.att + 1#2 }) :=
      (writes_att _ s).takesArrivals.trans (takesArrivals_sendFrame _)
    unfold attempts
    dsimp only
    split
    · exact hsent
    · exact hsent.trans (ih _)

theorem takesArrivals_drainOp (s : State) : TakesArrivals s (drainOp s) := by
  unfold drainOp
  split
  · exact (writes_report _ s).takesArrivals
  · exact ((writes_popHead s).append (writes_att 0#2 _)).takesArrivals.trans (takesArrivals_attempts _ _)

theorem takesArrivals_runStepOp (s : State) : TakesArrivals s (runStepOp s) := by
  unfold runStepOp
  split
  · unfold receiveBranch
    dsimp only
    split
    · exact (takesArrivals_readFrame s).trans (((writes_dispatchOp _).append (writes_applyActionOp _ _)).append
        (writes_respondOp _ _)).takesArrivals
    · exact takesArrivals_readFrame s
  · split
    · exact (writes_buildStatusOp s).takesArrivals.trans (takesArrivals_drainOp _)
    · exact (writes_report _ s).takesArrivals

theorem takesArrivals_after {i : Instr} (hi : i ∈ [Instr.sendFrame, .readFrame, .qDrain, .runStep]) (s : State) :
    TakesArrivals s (after i s) := by
  simp only [List.mem_cons, List.not_mem_nil, or_false] at hi
  rcases hi with rfl | rfl | rfl | rfl
  · exact takesArrivals_sendFrame s
  · exact takesArrivals_readFrame s
  · exact takesArrivals_drainOp s
  · exact takesArrivals_runStepOp s

/-! ## Every step -/

/-- Whatever there is to do next, a good state has a good next state with the same configuration. -/
theorem safe_step {s : State} (h : Safe s) : ∃ t, step s = .next t ∧ Safe t ∧ t.cfg = s.cfg := by
  have hinputs (rest : List Input) : Safe { s with inputs := rest } := ⟨h.1, { h.2 with }⟩
  have hserve {u : State} (hu : Safe u) (hcfg : u.cfg = s.cfg) (hdo : nextTodo s = .serve u) :
      ∃ t, step s = .next t ∧ Safe t ∧ t.cfg = s.cfg := by
    refine ⟨deliverTick u, by simp only [step, h.1, hdo, if_true], safe_deliverTick hu, ?_⟩
    rcases deliverTick_cases u with ⟨-, hd⟩ | ⟨-, hd⟩ <;> rw [hd] <;> exact hcfg
  have hwait {u : State} (n : Nat) (hu : Safe u) (hcfg : u.cfg = s.cfg) (hdo : nextTodo s = .wait n u) :
      ∃ t, step s = .next t ∧ Safe t ∧ t.cfg = s.cfg :=
    ⟨waitTicks n u, by simp only [step, h.1, hdo, if_true], (Advances.wait n u).safe (writes_waitTicks n u) hu, hcfg⟩
  rcases nextTodo_cases s with ⟨-, hdo⟩ | ⟨-, -, hdo⟩ | ⟨rest, -, -, hdo⟩ | ⟨n, rest, -, -, hdo⟩ |
    ⟨w, rest, -, -, hdo⟩
  · exact hserve (u := takeArrival s) ⟨h.1, { h.2 with }⟩ rfl hdo
  · exact hwait 1 h rfl hdo
  · exact hserve (hinputs rest) rfl hdo
  · exact hwait (s.idleTicks n) (hinputs (idleRest (s.idleTicks n) n rest)) rfl hdo
  · exact ⟨_, (step_of_nextTodo_run h.1 hdo).trans (exec_eq_after _ _), safe_after (hinputs rest) _,
      (after_outside _ _).1⟩

/-! ## The operations that can end in an error -/

/-- The instructions whose RESULT can be other than OK (R92, R230). -/
def CanFail (i : Instr) : Prop :=
  i ∈ [Instr.rxBit, .rxStart, .ackSend, .busFree, .sendFrame, .readFrame, .buildStatus, .qPush, .qPop, .qDrain,
    .runStep, .reserved1A, .reserved1B, .reserved1C, .reserved1D, .reserved1E, .reserved1F, .ackSlot .receiver] ∨
  (∃ n v, i = .txField n v) ∨ (∃ n, i = .rxField n) ∨ (∃ a, i = .applyAction a) ∨ (∃ a, i = .respond a) ∨
  (∃ sel v, i = .wrTxf sel v) ∨ (∃ sel, i = .rdReg sel) ∨ (∃ d, i = .dataGroupUnicast d) ∨
  (∃ snd rcv ctl len, i = .frameHeadUnicast snd rcv ctl len) ∨
  ∃ snd rcv ctl len, i = .frameHeadBroadcast snd rcv ctl len

/-- The others always report OK. -/
theorem canFail_of_ne_ok {i : Instr} {s : State} (h : (after i s).result.code ≠ .ok) : CanFail i := by
  cases i with
  | nop | txBit _ | txStart | ackRead | mask | unmask _ | dispatch | tick | reset | symbol1 | symbol0 | symbolStart =>
    exact absurd rfl h
  | dataGroupBroadcast d =>
    obtain ⟨t, ht, -⟩ := txData_broadcast d 0#6 s
    have hok : (after (.dataGroupBroadcast d) s).result = (finishWire (txData false d 0#6 s)).result := rfl
    rw [hok, ht] at h
    exact absurd rfl h
  | ackSlot role =>
    cases role with
    | sender => exact absurd rfl h
    | receiver => simp [CanFail]
  | _ => simp [CanFail]

/-! ## The obligations -/

/-- Settles O59: what each instruction writes (`written`), read by part. -/
theorem registersHaveOnlyTheirNamedWriters : Obligations.RegistersHaveOnlyTheirNamedWriters := by
  intro i s t h
  obtain rfl := exec_eq_next_iff.mp h
  exact
    ⟨after_outside i s,
      fun h =>
        have hi := writers_of_ne .arrivals h
        ⟨hi, (takesArrivals_after hi s).2.resolve_left fun h' => h h'.1⟩,
      writers_of_ne .rxf, writers_of_ne .txf, writers_of_ne .ds, writers_of_ne .respPending,
      fun h => writers_of_ne .queue (pair_ne (h.imp_right pair_ne)),
      writers_of_ne .qr,
      fun h => writers_of_ne .drops (pair_ne h),
      writers_of_ne .act, writers_of_ne .val, writers_of_ne .par, writers_of_ne .masked, writers_of_ne .tickLatch,
      writers_of_ne .timerBase, writers_of_ne .now,
      fun h => writers_of_ne .line (pair_ne h),
      writers_of_ne .seq, writers_of_ne .dur,
      fun h => writers_of_ne .field (pair_ne h),
      fun h => writers_of_ne .work (pair_ne h),
      canFail_of_ne_ok,
      eq_okay_of_shaped (after_result_shaped i s)⟩

/-- Settles O8: each instruction keeps the invariant (`safe_after`), and none writes the configuration. -/
theorem everyInstructionKeepsTheStateSafe : Obligations.EveryInstructionKeepsTheStateSafe := by
  intro i s t h hexec
  obtain rfl := exec_eq_next_iff.mp hexec
  exact ⟨safe_after h i, (after_outside i s).1⟩

/-- Settles O9: a step serves an arrival, lets time pass or runs an instruction (`safe_step`). -/
theorem everyStepKeepsTheStateSafe : Obligations.EveryStepKeepsTheStateSafe :=
  fun _ => safe_step

/-- Settles O5, field by field: each is the value that `State.reset` lists. -/
theorem resetStateHasTheResetValues : Obligations.ResetStateHasTheResetValues := by
  rintro s rfl
  have hpayloads (k : Nat) : State.reset.rxf.frame.pay.read k = 0#8 ∧ State.reset.txf.pay.read k = 0#8 :=
    ⟨Memory.read_nil k, Memory.read_nil k⟩
  have hslots (k : Nat) : slotRead State.reset.slots k = Frame.zero := rfl
  exact
    ⟨rfl, rfl, rfl, hpayloads, rfl, rfl, rfl, rfl, rfl, rfl, rfl, rfl, rfl, rfl, rfl, rfl, rfl, rfl, rfl, rfl, rfl, rfl,
      rfl, rfl, rfl, rfl, rfl, rfl, rfl, hslots, rfl, rfl, rfl, rfl⟩

/-- Settles O7: REF meets R8, and every register has its reset value. -/
theorem resetStateIsSafe : Obligations.ResetStateIsSafe :=
  ⟨by decide,
    { drvReleased := rfl
      seqAtRest := rfl
      queueBounded := Nat.zero_le _
      latchMasked := nofun
      durWidth := Nat.two_pow_pos _
      rxfLength := nofun
      rxfMemory := rfl
      txfMemory := rfl
      wfrMemory := rfl
      slotsCanonical := rfl
      slotMemories := fun _ hp => absurd hp List.not_mem_nil
      resultShaped := rfl
      logPast := fun _ hp => absurd hp List.not_mem_nil
      logAgrees := rfl
      timerStarted := Nat.le_refl _ }⟩

end Sys2Proof.Machine
end

section
/-! SUPPORT. The two encodings: what the wire decoder makes of the symbols of a field, a slot, a head and a group (R82
to R84), what the port decoder reads of its operands (R95), and how many symbols and ticks a frame takes (R86). -/

namespace Sys2Proof.Machine

/-! ## Fields and slots -/

@[simp] theorem takeBit_ofBit (b : Bool) (rest : List Symbol) : takeBit (Symbol.ofBit b :: rest) = .ok (b, rest) := by
  cases b <;> rfl

/-- The bits of a value are shifted in below what has been taken before, most-significant first (R66). -/
theorem takeBits_bitsMsb {w : Nat} (n acc : Nat) (v : BitVec w) (rest : List Symbol) :
    takeBits n acc ((bitsMsb n v).map Symbol.ofBit ++ rest) = .ok (2 ^ n * acc + v.toNat % 2 ^ n, rest) := by
  induction n generalizing acc with
  | zero => simp [bitsMsb, takeBits, Nat.mod_one]
  | succ n ih =>
    have hvalue : 2 ^ n * (2 * acc + (v.getLsbD n).toNat) + v.toNat % 2 ^ n =
        2 ^ (n + 1) * acc + v.toNat % 2 ^ (n + 1) := by
      rw [Nat.mod_pow_succ, ← Nat.toNat_testBit, BitVec.testBit_toNat, Nat.mul_add, Nat.pow_succ, Nat.mul_assoc]
      omega
    simp only [bitsMsb, List.map_cons, List.cons_append, takeBits, takeBit_ofBit, ih, hvalue]

/-- A field is read back from its symbols: its parity bit matches (R84). -/
@[simp] theorem takeField_fieldSymbols {n : Nat} (v : BitVec n) (rest : List Symbol) :
    takeField n (fieldSymbols n v ++ rest) = .ok (v, rest) := by
  have hvalue : 2 ^ n * 0 + v.toNat % 2 ^ n = v.toNat := by
    rw [Nat.mul_zero, Nat.zero_add, Nat.mod_eq_of_lt v.isLt]
  simp only [takeField, fieldSymbols, List.append_assoc, List.singleton_append, takeBits_bitsMsb, hvalue, takeBit_ofBit,
    BitVec.ofNat_toNat, BitVec.setWidth_eq, if_true]

@[simp] theorem takeSlot_slotSymbols (u : Bool) (rest : List Symbol) :
    takeSlot u (slotSymbols u ++ rest) = .ok rest := by
  cases u <;> rfl

/-- The mode bit says which of the two modes the frame has (R87). -/
@[simp] theorem modeBit_eq_modeBitUnicast (c : Config) (u : Bool) : decide (c.modeBit u = c.modeBitUnicast) = u := by
  cases u <;> simp [Config.modeBit]

/-! ## Heads and groups -/

/-- The row of the wire that a head is (R82). -/
def headInstr (u : Bool) (snd rcv : Addr) (ctl : BitVec 4) (len : BitVec 8) : Instr :=
  if u then .frameHeadUnicast snd rcv ctl len else .frameHeadBroadcast snd rcv ctl len

/-- The row of the wire that a data group is (R83). -/
def groupInstr (u : Bool) (d : Byte) : Instr := if u then .dataGroupUnicast d else .dataGroupBroadcast d

/-- What the wire decoder makes of a head, whatever follows it: the row, or LENGTH (R82, R88). -/
theorem decodeHead_headSymbols (c : Config) (u : Bool) (snd rcv : Addr) (ctl : BitVec 4) (len : BitVec 8)
    (rest : List Symbol) :
    decodeHead c (headSymbols c u snd rcv ctl len ++ rest) =
      if lengthLegal len.toNat then .ok (headInstr u snd rcv ctl len, rest) else .error .length := by
  simp only [headSymbols, List.append_assoc, List.cons_append, List.nil_append, decodeHead, takeBit_ofBit,
    takeField_fieldSymbols, takeSlot_slotSymbols, modeBit_eq_modeBitUnicast, bind, Except.bind, headInstr]
  cases u <;> rfl

theorem decodeGroup_groupSymbols (u : Bool) (d : Byte) (rest : List Symbol) :
    decodeGroup u (groupSymbols u d ++ rest) = .ok (groupInstr u d, rest) := by
  simp only [groupSymbols, List.append_assoc, decodeGroup, takeField_fieldSymbols, takeSlot_slotSymbols, bind,
    Except.bind]
  cases u <;> rfl

/-- A head of a legal length is read back from its symbols. -/
theorem decode_headSymbols (c : Config) (u : Bool) (snd rcv : Addr) (ctl : BitVec 4) {len : BitVec 8}
    (h : lengthLegal len.toNat = true) :
    decode c (.wire .head (headSymbols c u snd rcv ctl len)) = .ok (headInstr u snd rcv ctl len) := by
  have hhead := decodeHead_headSymbols c u snd rcv ctl len []
  rw [List.append_nil, if_pos h] at hhead
  simp only [decode, decodeWire, hhead]

theorem decode_groupSymbols (c : Config) (u : Bool) (d : Byte) :
    decode c (.wire (.group u) (groupSymbols u d)) = .ok (groupInstr u d) := by
  have hgroup := decodeGroup_groupSymbols u d []
  rw [List.append_nil] at hgroup
  simp only [decode, decodeWire, hgroup]

/-! ## The host port -/

/-- An operand that fits the port is read back from it (R95). -/
theorem setWidth_port {n : Nat} (v : BitVec n) (h : n ≤ 12 := by decide) : (v.setWidth 12).setWidth n = v := by
  rw [BitVec.setWidth_setWidth_of_le v h, BitVec.setWidth_eq]

theorem getLsbD_port (b : Bool) : (BitVec.ofNat 12 b.toNat).getLsbD 0 = b := by
  cases b <;> rfl

theorem decode_encode (c : Config) {i : Instr} {n : Nat} (h : i.wf n = true) : decode c (encode c i) = .ok i := by
  cases i with
  | txBit v => exact congrArg (fun b => Except.ok (Instr.txBit b)) (getLsbD_port v)
  | unmask p => exact congrArg (fun b => Except.ok (Instr.unmask b)) (getLsbD_port p)
  | txField n v => exact congrArg (fun m => Except.ok (Instr.txField m v)) (setWidth_port n)
  | rxField n => exact congrArg (fun m => Except.ok (Instr.rxField m)) (setWidth_port n)
  | applyAction a => exact congrArg (fun b => Except.ok (Instr.applyAction b)) (setWidth_port a)
  | respond a => exact congrArg (fun b => Except.ok (Instr.respond b)) (setWidth_port a)
  | wrTxf sel v => exact congrArg (fun m => Except.ok (Instr.wrTxf m v)) (setWidth_port sel)
  | rdReg sel => exact congrArg (fun m => Except.ok (Instr.rdReg m)) (setWidth_port sel)
  | frameHeadUnicast snd rcv ctl len => exact decode_headSymbols c true snd rcv ctl h
  | frameHeadBroadcast snd rcv ctl len => exact decode_headSymbols c false snd rcv ctl h
  | dataGroupUnicast d => exact decode_groupSymbols c true d
  | dataGroupBroadcast d => exact decode_groupSymbols c false d
  | _ => rfl

/-- The operand bits of ARG0 that R95 lists for an OP code. -/
def listedArg0 (op : BitVec 5) : BitVec 12 :=
  if op ∈ [0x01#5, 0x0A#5] then 0x001#12 else if op ∈ [0x03#5, 0x05#5] then 0x00F#12
  else if op = 0x17#5 then 0x03F#12 else if op ∈ [0x0F#5, 0x11#5, 0x18#5] then 0x0FF#12 else 0x000#12

/-- A mask that keeps the low n bits does not matter to an operand of n bits. -/
theorem setWidth_masked {n : Nat} (a m : BitVec 12) (h : m.setWidth n = BitVec.allOnes n) :
    (a &&& m).setWidth n = a.setWidth n := by
  rw [BitVec.setWidth_and, h, BitVec.and_allOnes]

theorem getLsbD_masked (a : BitVec 12) : (a &&& 0x001#12).getLsbD 0 = a.getLsbD 0 := by
  rw [BitVec.getLsbD_and]
  exact Bool.and_true _

/-- The OP codes without an operand (R95). -/
def plainOps : List (BitVec 5) :=
  [0x00#5, 0x02#5, 0x04#5, 0x06#5, 0x07#5, 0x08#5, 0x09#5, 0x0B#5, 0x0C#5, 0x0D#5, 0x0E#5, 0x10#5, 0x12#5, 0x13#5,
    0x14#5, 0x15#5, 0x16#5, 0x19#5, 0x1A#5, 0x1B#5, 0x1C#5, 0x1D#5, 0x1E#5, 0x1F#5]

/-- The OP codes by what they read of ARG0: a bit, a width, a selector of WR_TXF, a byte, or nothing (R95). -/
theorem op_cases (op : BitVec 5) :
    op ∈ [0x01#5, 0x0A#5] ∨ op ∈ [0x03#5, 0x05#5] ∨ op = 0x17#5 ∨ op ∈ [0x0F#5, 0x11#5, 0x18#5] ∨
      op ∈ plainOps := by
  decide +revert

/-- The plain codes start the same operation whatever the operands are. -/
theorem decodePort_plain {op : BitVec 5} (h : op ∈ plainOps) (a a' b b' : BitVec 12) :
    decodePort ⟨op, a, b⟩ = decodePort ⟨op, a', b'⟩ := by
  fin_cases h <;> rfl

/-- The bits of ARG0 that R95 does not list are ignored (R97 (c)). -/
theorem decodePort_listedArg0 (w : PortWord) :
    decodePort { w with arg0 := w.arg0 &&& listedArg0 w.op } = decodePort w := by
  obtain ⟨op, a, b⟩ := w
  rcases op_cases op with h | h | rfl | h | h
  · simp only [List.mem_cons, List.not_mem_nil, or_false] at h
    rcases h with rfl | rfl
    · exact congrArg Instr.txBit (getLsbD_masked a)
    · exact congrArg Instr.unmask (getLsbD_masked a)
  · simp only [List.mem_cons, List.not_mem_nil, or_false] at h
    rcases h with rfl | rfl
    · exact congrArg (Instr.txField · b) (setWidth_masked a 0x00F#12 rfl)
    · exact congrArg Instr.rxField (setWidth_masked a 0x00F#12 rfl)
  · exact congrArg (Instr.wrTxf · b) (setWidth_masked a 0x03F#12 rfl)
  · simp only [List.mem_cons, List.not_mem_nil, or_false] at h
    rcases h with rfl | rfl | rfl
    · exact congrArg Instr.applyAction (setWidth_masked a 0x0FF#12 rfl)
    · exact congrArg Instr.respond (setWidth_masked a 0x0FF#12 rfl)
    · exact congrArg Instr.rdReg (setWidth_masked a 0x0FF#12 rfl)
  · exact decodePort_plain h _ _ b b

/-- Only TX_FIELD and WR_TXF read ARG1 (R95). -/
theorem decodePort_arg1 (w : PortWord) :
    w.op = 0x03#5 ∨ w.op = 0x17#5 ∨ decodePort { w with arg1 := 0#12 } = decodePort w := by
  obtain ⟨op, a, b⟩ := w
  rcases op_cases op with h | h | rfl | h | h
  · simp only [List.mem_cons, List.not_mem_nil, or_false] at h
    rcases h with rfl | rfl <;> exact .inr (.inr rfl)
  · simp only [List.mem_cons, List.not_mem_nil, or_false] at h
    rcases h with rfl | rfl
    · exact .inl rfl
    · exact .inr (.inr rfl)
  · exact .inr (.inl rfl)
  · simp only [List.mem_cons, List.not_mem_nil, or_false] at h
    rcases h with rfl | rfl | rfl <;> exact .inr (.inr rfl)
  · exact .inr (.inr (decodePort_plain h a a _ _))

/-! ## Symbols and ticks of a frame -/

@[simp] theorem fieldSymbols_length {w : Nat} (n : Nat) (v : BitVec w) : (fieldSymbols n v).length = n + 1 := by
  simp [fieldSymbols]

/-- The groups of a payload have 9 symbols each, and in a unicast frame the slot (R83). -/
theorem groups_length (u : Bool) (ds : List Byte) :
    (ds.flatMap (groupSymbols u)).length = (if u then 10 else 9) * ds.length := by
  induction ds with
  | nil => simp
  | cons d ds ih =>
    rw [List.flatMap_cons, List.length_append, ih]
    cases u <;> simp [groupSymbols, slotSymbols] <;> omega

theorem groups_ticks (c : Config) (u : Bool) (ds : List Byte) :
    waveTicks c (ds.flatMap (groupSymbols u)) = (if u then 10 else 9) * ds.length * c.tBit := by
  induction ds with
  | nil => simp
  | cons d ds ih =>
    rw [List.flatMap_cons, waveTicks_append, ih, group_ticks, List.length_cons, Nat.mul_add, Nat.add_mul, Nat.mul_one,
      Nat.add_comm]

theorem symbolTicks_ofBit (c : Config) (b : Bool) : symbolTicks c (Symbol.ofBit b) = c.tBit := by
  cases b <;> rfl

/-- The head of a frame has 42 symbols, and in a unicast frame three slots (R82). -/
theorem headSymbols_length (c : Config) (u : Bool) (snd rcv : Addr) (ctl : BitVec 4) (len : BitVec 8) :
    (headSymbols c u snd rcv ctl len).length = if u then 45 else 42 := by
  cases u <;> simp [headSymbols, slotSymbols]

theorem headSymbols_ticks (c : Config) (u : Bool) (snd rcv : Addr) (ctl : BitVec 4) (len : BitVec 8) :
    waveTicks c (headSymbols c u snd rcv ctl len) =
      c.tStartDriven + c.tStartFloat + (if u then 44 else 41) * c.tBit := by
  simp only [headSymbols, waveTicks_append, waveTicks_cons, waveTicks_nil, waveTicks_field, symbolTicks_ofBit]
  cases u <;> simp [slotSymbols, symbolTicks] <;> omega

/-- The bits of a field have an odd number of ones exactly when its parity bit is a one (R84). -/
theorem count_bitsMsb {w : Nat} (n : Nat) (v : BitVec w) : (bitsMsb n v).count true % 2 = (parity n v).toNat := by
  induction n with
  | zero => rfl
  | succ n ih =>
    simp only [bitsMsb, parity]
    rw [List.count_cons]
    cases v.getLsbD n <;> cases hp : parity n v <;> simp [hp] at ih ⊢ <;> omega

/-! ## The obligations -/

/-- Settles O10: the port operands and the symbols of the wire are read back (`decode_encode`). -/
theorem decodeInvertsEncode : Obligations.DecodeInvertsEncode :=
  fun c _ _ h => decode_encode c h

/-- Settles O12: a head of an illegal length is refused at its length group (`decodeHead_headSymbols`). -/
theorem illegalLengthsAreRejectedOnTheWire : Obligations.IllegalLengthsAreRejectedOnTheWire := by
  intro c u snd rcv ctl len rest hlen
  have hillegal : ¬ lengthLegal len.toNat = true := by
    rw [lengthLegal_iff]
    omega
  rw [decodeHead_headSymbols, if_neg hillegal]

/-- Settles O13: a frame is its head and its groups, whose symbols and ticks add up. -/
theorem frameHasItsSymbolsAndDuration : Obligations.FrameHasItsSymbolsAndDuration := by
  intro c f hmin hmax
  have hlength : (frameSymbols c f).length =
      (if f.unicast then 45 else 42) + (if f.unicast then 10 else 9) * f.length.toNat := by
    rw [frameSymbols, List.length_append, headSymbols_length, groups_length, Memory.bytes_length]
  have hticks : waveTicks c (frameSymbols c f) = c.tStartDriven + c.tStartFloat +
      ((if f.unicast then 44 else 41) + (if f.unicast then 10 else 9) * f.length.toNat) * c.tBit := by
    rw [frameSymbols, waveTicks_append, headSymbols_ticks, groups_ticks, Memory.bytes_length, Nat.add_assoc,
      ← Nat.add_mul]
  rw [hlength, hticks]
  cases f.unicast <;> exact ⟨rfl, rfl, by simp only [reduceIte, Bool.false_eq_true]; omega⟩

/-- Settles O11: the 32 words are decoded one by one, and no code reads an operand bit that R95 does not list. -/
theorem portWordsStartTheirOperations : Obligations.PortWordsStartTheirOperations := by
  refine ⟨by decide, by decide, decodePort_arg1, ?_⟩
  rintro w _ rfl
  exact decodePort_listedArg0 w

/-- Settles O14: the parity bit counts the ones of the field modulo 2 (`count_bitsMsb`). -/
theorem parityIsEven : Obligations.ParityIsEven := by
  intro w n v
  have hcount := count_bitsMsb n v
  rw [List.count_append]
  cases hp : parity n v <;> simp [hp] at hcount ⊢ <;> omega

end Sys2Proof.Machine
end

section
/-! SUPPORT. The DIAG output (R94, R252): an operation of one piece emits its own error and nothing else (`LogsError`);
the composed ones only append. -/

namespace Sys2Proof.Machine

/-! ## Which results are emitted -/

/-- A result that is emitted as a DIAG event: any but OK, EMPTY and BADOP (R94). -/
abbrev Reported (r : ResultReg) : Prop := r.code ∉ [.ok, .empty, .badop]

theorem reported_iff (r : ResultReg) : Reported r ↔ ¬ (r.code = .ok ∨ r.code = .empty ∨ r.code = .badop) := by
  simp [Reported]

/-- From s to t the DIAG output has gained the RESULT of t when that is an error to be reported, else nothing. -/
def LogsError (s t : State) : Prop :=
  t.diag = if t.result.code = .ok ∨ t.result.code = .empty ∨ t.result.code = .badop then s.diag
    else s.diag ++ [t.result]

theorem logsError_of_reported {s t : State} (hr : Reported t.result) (hd : t.diag = s.diag ++ [t.result]) :
    LogsError s t := by
  rw [LogsError, if_neg ((reported_iff _).mp hr), hd]

theorem logsError_of_silent {s t : State} (hr : ¬ Reported t.result) (hd : t.diag = s.diag) : LogsError s t := by
  rw [LogsError, if_pos (not_not.mp (mt (reported_iff _).mpr hr)), hd]

/-- The end of an operation with a code that is not reported. -/
theorem logsError_report {s t : State} (hd : t.diag = s.diag) (c : ResCode) (hc : ¬ Reported (raised c) := by decide) :
    LogsError s (report c t) :=
  logsError_of_silent hc hd

/-- The end of an operation with an error without a position. -/
theorem logsError_emit {s t : State} (hd : t.diag = s.diag) (c : ResCode) (hc : Reported (raised c) := by decide) :
    LogsError s (emit (raised c) (report c t)) :=
  logsError_of_reported hc (congrArg (· ++ [raised c]) hd)

theorem logsError_exitFrame {s t : State} (hd : t.diag = s.diag) (prev : Bool) {r : ResultReg}
    (hr : r.code = .ok ∨ Reported r) : LogsError s (exitFrame prev r t) := by
  by_cases hok : r.code = .ok
  · exact logsError_of_silent (by simp [hok]) (by simp [hok, hd])
  · exact logsError_of_reported (by simpa using hr.resolve_left hok) (by simp [hok, hd])

/-- An operation that the host issued on its own: OK, or the error of its step (R109). -/
theorem logsError_finish {α : Type} {s : State} {r : Res α} {k : α → State → State} (ha : r.Ends (Advances s))
    (hr : r.Raises Reported) (hk : ∀ a t, (k a t).diag = t.diag) : LogsError s (finish r k) := by
  cases r with
  | ok a t => exact logsError_of_silent (by decide : ¬ Reported ResultReg.okay) ((hk a t).trans ha.diag)
  | err e t => exact logsError_of_reported hr (congrArg (· ++ [e]) ha.diag)

theorem logsError_finishWire {s : State} {r : Res Unit} (ha : r.Ends (Advances s)) (hr : r.Raises Reported) :
    LogsError s (finishWire r) :=
  logsError_finish ha hr fun _ _ => rfl

/-! ## The errors of the bus are reported -/

theorem Res.Raises.reported_atPos {α : Type} {r : Res α} {f : FieldPos} {i : BitVec 6} (hr : r.Raises Reported) :
    (r.atPos f i).Raises Reported :=
  hr.atPos fun _ he => he

theorem reported_of_desync {α : Type} {r : Res α} (h : r.Raises (· = raised .desync)) : r.Raises Reported :=
  h.imp fun _ he => he ▸ by decide

theorem rxStart_reports (s : State) : (rxStart s).Raises Reported :=
  (rxStart_raises s).imp (by decide)

theorem txAck_reports (u : Bool) (f : FieldPos) (i : BitVec 6) (s : State) : (txAck u f i s).Raises Reported := by
  have hnak : Reported { code := .nak, field := f, index := i } := (by decide : ResCode.nak ∉ [.ok, .empty, .badop])
  unfold txAck
  split
  · dsimp only
    split
    · trivial
    · exact hnak
  · trivial

theorem txHead_reports (u : Bool) (snd rcv : Addr) (ctl : BitVec 4) (len : BitVec 8) (s : State) :
    (txHead u snd rcv ctl len s).Raises Reported :=
  (txAck_reports u _ _ _).andThen fun _ _ => (txAck_reports u _ _ _).andThen fun _ _ => txAck_reports u _ _ _

theorem txData_reports (u : Bool) (d : Byte) (i : BitVec 6) (s : State) : (txData u d i s).Raises Reported :=
  txAck_reports u _ _ _

theorem txPayload_reports (u : Bool) (pay : Memory) (k i : Nat) (s : State) :
    (txPayload u pay k i s).Raises Reported := by
  induction k generalizing i s with
  | zero => trivial
  | succ k ih => exact (txData_reports u _ _ _).andThen fun _ _ => ih _ _

theorem txFrame_reports (f : Frame) (s : State) : (txFrame f s).Raises Reported :=
  (txHead_reports _ _ _ _ _ s).andThen fun _ _ => txPayload_reports _ _ _ _ _

theorem rxGroup_reports (n : Nat) (f : FieldPos) (i : BitVec 6) (s : State) : (rxGroup n f i s).Raises Reported := by
  refine (reported_of_desync (rxField_raises n _)).reported_atPos.andThen fun v t =>
    (reported_of_desync (rxBit_raises t)).reported_atPos.andThen fun p u => ?_
  split
  · trivial
  · exact (by decide : ResCode.parity ∉ [.ok, .empty, .badop])

theorem rxAck_reports (u forme : Bool) (f : FieldPos) (i : BitVec 6) (s : State) :
    (rxAck u forme f i s).Raises Reported := by
  unfold rxAck
  split
  · split
    · exact (reported_of_desync (ackSend_raises _)).reported_atPos
    · exact (reported_of_desync (rxBit_raises _)).reported_atPos.andThen fun _ _ => trivial
  · trivial

theorem rxPayload_reports (u forme : Bool) (k i : Nat) (s : State) : (rxPayload u forme k i s).Raises Reported := by
  induction k generalizing i s with
  | zero => trivial
  | succ k ih =>
    exact (rxGroup_reports _ _ _ _).andThen fun _ _ => (rxAck_reports _ _ _ _ _).andThen fun _ _ => ih _ _

theorem rxFrame_reports (s : State) : (rxFrame s).Raises Reported := by
  refine (rxStart_reports _).reported_atPos.andThen fun _ t =>
    (reported_of_desync (rxBit_raises _)).reported_atPos.andThen fun m t =>
    (rxGroup_reports _ _ _ _).andThen fun v t => (rxGroup_reports _ _ _ _).andThen fun v t =>
    (rxAck_reports _ _ _ _ _).andThen fun _ t => (rxGroup_reports _ _ _ _).andThen fun v t =>
    (rxAck_reports _ _ _ _ _).andThen fun _ t => (rxGroup_reports _ _ _ _).andThen fun v t => ?_
  split
  · exact (rxAck_reports _ _ _ _ _).andThen fun _ _ => (rxPayload_reports _ _ _ _ _).andThen fun _ _ => trivial
  · exact (by decide : ResCode.length ∉ [.ok, .empty, .badop])

/-! ## Operations of one piece -/

theorem logsError_sendFrame (s : State) : LogsError s (sendFrame s) := by
  unfold sendFrame
  split
  · have hfree := Advances.busFree { s with masked := true }
    dsimp only
    split
    next t hbus =>
      rw [hbus] at hfree
      exact logsError_exitFrame hfree.diag _ (.inr (by decide))
    next t hbus =>
      rw [hbus] at hfree
      have hsent := Advances.txFrame t.txf t
      have hreports := txFrame_reports t.txf t
      split
      next e u hframe =>
        rw [hframe] at hsent hreports
        exact logsError_exitFrame (hfree.trans hsent).diag _ (.inr hreports)
      next u hframe =>
        rw [hframe] at hsent
        exact logsError_exitFrame (r := ResultReg.okay) (hfree.trans hsent).diag _ (.inl rfl)
  · exact logsError_emit rfl .badlen

theorem logsError_readFrame (s : State) : LogsError s (readFrame s) := by
  have hread := Advances.rxFrame { s with masked := true, rxf.valid := false }
  have hreports := rxFrame_reports { s with masked := true, rxf.valid := false }
  unfold readFrame
  dsimp only
  split
  next e t hframe =>
    rw [hframe] at hread hreports
    exact logsError_exitFrame hread.diag _ (.inr hreports)
  next len t hframe =>
    rw [hframe] at hread
    exact logsError_exitFrame (r := ResultReg.okay) (by exact hread.diag) _ (.inl rfl)

/-- A push that reports itself, whatever else is written between (R206). -/
theorem logsError_push (f : Frame) {s t : State} (hd : t.diag = (push f s).2.diag) :
    LogsError s (report (pushCode (push f s).1) t) := by
  rcases push_cases f s with ⟨-, h⟩ | ⟨-, h⟩ <;> rw [h] at hd ⊢
  · exact logsError_of_reported (by decide : Reported (raised .overflow)) hd
  · exact logsError_report hd .ok

/-- An identifier without a template queues nothing; any other pushes the frame that is built (R203). -/
theorem pushTemplate_cases (n : Nat) (s : State) :
    pushTemplate n s = (true, s) ∨ ∃ f, pushTemplate n s = push f s := by
  unfold pushTemplate
  split
  · exact .inl rfl
  · exact .inr ⟨_, rfl⟩

theorem logsError_buildStatusOp (s : State) : LogsError s (buildStatusOp s) := by
  unfold buildStatusOp
  split
  · rcases pushTemplate_cases s.cfg.statusTemplate s with h | ⟨f, h⟩ <;> rw [h]
    · exact logsError_report rfl .ok
    · exact logsError_push f rfl
  · exact logsError_report rfl .ok

theorem logsError_applyActionOp (a : Byte) (s : State) : LogsError s (applyActionOp a s) := by
  unfold applyActionOp
  split
  · split <;> exact logsError_report rfl .ok
  · exact logsError_report rfl .badop

theorem logsError_headOp (u : Bool) (snd rcv : Addr) (ctl : BitVec 4) (len : BitVec 8) (s : State) :
    LogsError s (headOp u snd rcv ctl len s) := by
  unfold headOp
  split
  · exact logsError_finishWire (Advances.txHead u snd rcv ctl len s) (txHead_reports u snd rcv ctl len s)
  · exact logsError_emit rfl .badlen

/-- Every instruction that is one operation logs the error that it ends in. -/
theorem logsError_after {i : Instr} (s : State) (hi : i ∉ [Instr.qDrain, .runStep]) (hr : ∀ a, i ≠ .respond a) :
    LogsError s (after i s) := by
  cases i with
  | nop | mask | dispatch | tick => exact logsError_report rfl .ok
  | reserved1A | reserved1B | reserved1C | reserved1D | reserved1E | reserved1F => exact logsError_report rfl .badop
  | txBit v => exact logsError_report (Advances.txBit v s).diag .ok
  | symbol1 => exact logsError_report (Advances.txBit true s).diag .ok
  | symbol0 => exact logsError_report (Advances.txBit false s).diag .ok
  | txStart | symbolStart => exact logsError_report (Advances.txStart s).diag .ok
  | txField n v =>
    rcases after_txField n v s with h | h <;> rw [h]
    · exact logsError_report (Advances.txField _ v s).diag .ok
    · exact logsError_report rfl .badop
  | rxBit => exact logsError_finish (Advances.rxBit s) (reported_of_desync (rxBit_raises s)) fun _ _ => rfl
  | rxField n =>
    rcases after_rxField n s with h | h <;> rw [h]
    · exact logsError_finish (Advances.rxField _ s) (reported_of_desync (rxField_raises _ s)) fun _ _ => rfl
    · exact logsError_report rfl .badop
  | rxStart => exact logsError_finish (Advances.rxStart s) (rxStart_reports s) fun _ _ => rfl
  | ackRead => exact logsError_report (Advances.ackRead s).diag .ok
  | ackSend => exact logsError_finish (Advances.ackSend s) (reported_of_desync (ackSend_raises s)) fun _ _ => rfl
  | ackSlot role =>
    cases role with
    | sender => exact logsError_report (Advances.ackRead s).diag .ok
    | receiver => exact logsError_finish (Advances.ackSend s) (reported_of_desync (ackSend_raises s)) fun _ _ => rfl
  | unmask p => exact logsError_report (restoreMask_diag p s) .ok
  | busFree =>
    rcases after_busFree s with h | h <;> rw [h]
    · exact logsError_report (Advances.busFree s).diag .ok
    · exact logsError_emit (Advances.busFree s).diag .busy
  | sendFrame => exact logsError_sendFrame s
  | readFrame => exact logsError_readFrame s
  | applyAction a => exact logsError_applyActionOp a s
  | buildStatus => exact logsError_buildStatusOp s
  | qPush => exact logsError_push s.txf rfl
  | qPop =>
    rcases after_qPop s with h | ⟨-, h⟩ <;> rw [h]
    · exact logsError_report rfl .empty
    · exact logsError_report rfl .ok
  | wrTxf sel v =>
    rcases after_wrTxf sel v s with ⟨f, -, h⟩ | h <;> rw [h]
    · exact logsError_report rfl .ok
    · exact logsError_report rfl .badop
  | rdReg sel =>
    obtain ⟨v, h | h⟩ := after_rdReg sel s <;> rw [h]
    · exact logsError_report rfl .ok
    · exact logsError_report rfl .badop
  | reset => exact logsError_of_silent (by decide : ¬ Reported ResultReg.okay) rfl
  | frameHeadUnicast snd rcv ctl len => exact logsError_headOp _ _ _ _ _ s
  | frameHeadBroadcast snd rcv ctl len => exact logsError_headOp _ _ _ _ _ s
  | dataGroupUnicast d => exact logsError_finishWire (Advances.txData true d _ s) (txData_reports _ d _ s)
  | dataGroupBroadcast d => exact logsError_finishWire (Advances.txData false d _ s) (txData_reports _ d _ s)
  | respond a => exact absurd rfl (hr a)
  | qDrain | runStep => simp at hi

/-! ## Composed operations only append -/

/-- The events of s come first in those of t. -/
def Appends (s t : State) : Prop := s.diag <+: t.diag

theorem Appends.trans {s t u : State} (a : Appends s t) (b : Appends t u) : Appends s u := List.IsPrefix.trans a b

theorem appends_of_eq {s t : State} (h : t.diag = s.diag) : Appends s t := ⟨[], by rw [List.append_nil, h]⟩

theorem appends_emit (r : ResultReg) (s : State) : Appends s (emit r s) := List.prefix_append _ _

theorem LogsError.appends {s t : State} (h : LogsError s t) : Appends s t := by
  rw [Appends, h]
  split
  · exact List.prefix_rfl
  · exact List.prefix_append _ _

theorem appends_pushTemplate (n : Nat) (s : State) : Appends s (pushTemplate n s).2 := by
  rcases pushTemplate_cases n s with h | ⟨f, h⟩ <;> rw [h]
  · exact appends_of_eq rfl
  · exact (logsError_push f rfl).appends

theorem appends_pushAll (ts : List Nat) (s : State) : Appends s (pushAll ts s).2 := by
  induction ts generalizing s with
  | nil => exact appends_of_eq rfl
  | cons t ts ih => exact (appends_pushTemplate t s).trans (ih _)

theorem appends_respondOp (a : Byte) (s : State) : Appends s (respondOp a s) := by
  unfold respondOp
  split
  · split
    · exact appends_of_eq rfl
    · exact (appends_pushAll _ s).trans (appends_of_eq rfl)
  · exact appends_of_eq rfl

theorem appends_attempts (k : Nat) (s : State) : Appends s (attempts k s) := by
  induction k generalizing s with
  | zero => exact appends_emit _ s
  | succ k ih =>
    have hsent : Appends s (sendFrame { s with att := s.att + 1#2 }) :=
      (logsError_sendFrame { s with att := s.att + 1#2 }).appends
    unfold attempts
    dsimp only
    split
    · exact hsent
    · exact hsent.trans (ih _)

theorem appends_drainOp (s : State) : Appends s (drainOp s) := by
  unfold drainOp
  split
  · exact appends_of_eq rfl
  · exact Appends.trans (t := { popHead s with att := 0#2 }) (appends_of_eq rfl) (appends_attempts _ _)

theorem appends_receiveBranch (s : State) : Appends s (receiveBranch s) := by
  have hread := (logsError_readFrame s).appends
  unfold receiveBranch
  dsimp only
  split
  · have hdispatch : Appends (readFrame s) (dispatchOp (readFrame s)) := appends_of_eq rfl
    exact ((hread.trans hdispatch).trans (logsError_applyActionOp _ _).appends).trans (appends_respondOp _ _)
  · exact hread

theorem appends_runStepOp (s : State) : Appends s (runStepOp s) := by
  unfold runStepOp
  split
  · exact appends_receiveBranch s
  · split
    · exact (logsError_buildStatusOp s).appends.trans (appends_drainOp _)
    · exact appends_of_eq rfl

theorem appends_after (i : Instr) (s : State) : Appends s (after i s) := by
  cases i with
  | respond a => exact appends_respondOp a s
  | qDrain => exact appends_drainOp s
  | runStep => exact appends_runStepOp s
  | _ => exact (logsError_after s (by simp) (by simp)).appends

/-! ## The obligation -/

/-- Settles O60: an operation of one piece logs its own error (`logsError_after`), and every operation only appends. -/
theorem everyErrorIsOneDiagEvent : Obligations.EveryErrorIsOneDiagEvent := by
  intro i s t h
  obtain rfl := exec_eq_next_iff.mp h
  obtain ⟨new, hnew⟩ := appends_after i s
  exact ⟨logsError_after s, new, hnew.symm⟩

end Sys2Proof.Machine
end

section
/-! SUPPORT. The host port and the symbols of the wire: which operands are illegal (R97), what WR_TXF and RD_REG make of
each selector (R96), and the pulse of a bit as a whole next state (R110). -/

namespace Sys2Proof.Machine

/-! ## Illegal operands (R97) -/

theorem widthLegal_iff (n : BitVec 4) : widthLegal n = true ↔ 1 ≤ n.toNat ∧ n.toNat ≤ 12 := by
  simp [widthLegal]

theorem exec_field_illegal {n : BitVec 4} (h : ¬ widthLegal n = true) (v : BitVec 12) (s : State) :
    exec (.txField n v) s = .next { s with result := raised .badop } ∧
      exec (.rxField n) s = .next { s with result := raised .badop } :=
  ⟨congrArg Host.Outcome.next (if_neg h), congrArg Host.Outcome.next (if_neg h)⟩

theorem exec_action_illegal {a : Byte} {s : State} (h : ¬ a.toNat ≤ s.cfg.nActions) :
    exec (.applyAction a) s = .next { s with result := raised .badop } ∧
      exec (.respond a) s = .next { s with result := raised .badop } :=
  ⟨congrArg Host.Outcome.next (if_neg h), congrArg Host.Outcome.next (if_neg h)⟩

/-! ## Selectors (R96) -/

theorem exec_wrTxf_some {f : Frame} {sel : BitVec 6} {v : BitVec 12} {s : State} (h : writeTxf s.txf sel v = some f) :
    exec (.wrTxf sel v) s = .next { s with txf := f, result := ResultReg.okay } := by
  simp only [exec, execWrTxf, h]
  rfl

theorem exec_wrTxf_none {sel : BitVec 6} {v : BitVec 12} {s : State} (h : writeTxf s.txf sel v = none) :
    exec (.wrTxf sel v) s = .next { s with result := raised .badop } := by
  simp only [exec, execWrTxf, h]
  rfl

theorem exec_rdReg_some {w : BitVec 12} {sel : BitVec 8} {s : State} (h : readReg s sel = some w) :
    exec (.rdReg sel) s = .next { s with val := w, result := ResultReg.okay } := by
  simp only [exec, execRdReg, h]
  rfl

theorem exec_rdReg_none {sel : BitVec 8} {s : State} (h : readReg s sel = none) :
    exec (.rdReg sel) s = .next { s with val := 0#12, result := raised .badop } := by
  simp only [exec, execRdReg, h]
  rfl

theorem writeTxf_unlisted (f : Frame) {sel : BitVec 6} (v : BitVec 12) (h : 4 < sel.toNat) (h' : sel.toNat < 32) :
    writeTxf f sel v = none := by
  simp (disch := omega) only [writeTxf, if_neg]

theorem readReg_unlisted (s : State) {sel : BitVec 8}
    (h : (12 < sel.toNat ∧ sel.toNat < 16) ∨ (21 < sel.toNat ∧ sel.toNat < 32) ∨ 72 < sel.toNat) :
    readReg s sel = none := by
  simp (disch := omega) only [readReg, if_neg]

theorem writeTxf_payload (f : Frame) {i : Nat} (hi : i < 32) (v : BitVec 12) :
    writeTxf f (BitVec.ofNat 6 (32 + i)) v = some { f with pay := f.pay.write i (v.setWidth 8) } := by
  have hsel : (BitVec.ofNat 6 (32 + i)).toNat = 32 + i := by
    rw [BitVec.toNat_ofNat, Nat.mod_eq_of_lt (by omega)]
  simp (disch := omega) only [writeTxf, hsel, if_neg, if_pos, Nat.add_sub_cancel_left]

theorem readReg_payload (s : State) {i : Nat} (hi : i < 32) :
    readReg s (BitVec.ofNat 8 (32 + i)) = some ((s.rxf.frame.pay.read i).setWidth 12) := by
  have hsel : (BitVec.ofNat 8 (32 + i)).toNat = 32 + i := by
    rw [BitVec.toNat_ofNat, Nat.mod_eq_of_lt (by omega)]
  simp (disch := omega) only [readReg, hsel, if_neg, if_pos, Nat.add_sub_cancel_left]

/-- The selectors of RD_REG beside those of RESULT's codes and of the payload, each with the number that its register
holds (R96). -/
def listedRegisters (s : State) : List (Nat × Nat) :=
  [(2, s.result.index.toNat), (3, s.act.toNat), (4, s.dur), (5, s.par.toNat), (6, s.masked.toNat),
    (7, s.tickLatch.toNat), (8, s.respPending.toNat), (9, s.qw.toNat), (10, s.qr.toNat), (11, s.ovfCount.toNat),
    (12, s.dropCount.toNat), (16, s.rxf.valid.toNat), (17, s.rxf.frame.unicast.toNat), (18, s.rxf.frame.sender.toNat),
    (19, s.rxf.frame.receiver.toNat), (20, s.rxf.frame.control.toNat), (21, s.rxf.frame.length.toNat),
    (64, if s.ds.mode = .play then 1 else 0), (65, s.ds.track.toNat), (66, s.ds.min.toNat), (67, s.ds.sec.toNat),
    (68, (s.cfg.stateByte s.ds.status).toNat), (69, s.ds.repeatOn.toNat), (70, s.ds.randomOn.toNat),
    (71, s.ds.scanOn.toNat), (72, s.ds.aux.toNat)]

/-- A register of any width is shown zero-extended or cut to 12 bits: the 12 bits of its number. -/
theorem some_setWidth_eq {w : Nat} (v : BitVec w) : some (v.setWidth 12) = some (BitVec.ofNat 12 v.toNat) :=
  congrArg some (BitVec.ofNat_toNat 12 v).symm

theorem readReg_listed (s : State) :
    ∀ p ∈ listedRegisters s, readReg s (BitVec.ofNat 8 p.1) = some (BitVec.ofNat 12 p.2) := by
  have haddr (a : Addr) : some a = some (BitVec.ofNat 12 a.toNat) := by
    rw [← some_setWidth_eq, BitVec.setWidth_eq]
  have hmode : bitVal (decide (s.ds.mode = .play)) = BitVec.ofNat 12 (if s.ds.mode = .play then 1 else 0) := by
    by_cases h : s.ds.mode = .play <;> simp [h, bitVal]
  simp only [listedRegisters, List.forall_mem_cons]
  exact ⟨some_setWidth_eq _, some_setWidth_eq _, rfl, rfl, rfl, rfl, rfl, some_setWidth_eq _, some_setWidth_eq _,
    some_setWidth_eq _, some_setWidth_eq _, rfl, rfl, haddr _, haddr _, some_setWidth_eq _, some_setWidth_eq _,
    congrArg some hmode, some_setWidth_eq _, some_setWidth_eq _, some_setWidth_eq _, some_setWidth_eq _, rfl, rfl, rfl,
    some_setWidth_eq _, List.forall_mem_nil _⟩

theorem readReg_code (s : State) : readReg s 0#8 = some (BitVec.ofNat 12 s.result.code.number) := rfl

theorem readReg_field (s : State) : readReg s 1#8 = some (BitVec.ofNat 12 s.result.field.number) := rfl

/-! ## Pulses as whole states (R80) -/

/-- A bit takes its bit period: the floating phase is what the driven one leaves (R110). -/
theorem txBit_eq {s : State} (h : s.cfg.wf = true) (v : Bool) :
    txBit v s = { s with
      drv := false, drvLog := (s.now + Config.driven s.cfg v, false) :: (s.now, true) :: s.drvLog,
      now := s.now + s.cfg.tBit } := by
  have ht := wf_timing h
  have hd : Config.driven s.cfg v ≤ s.cfg.tBit := by cases v <;> simp [Config.driven] <;> omega
  have hnow : s.now + Config.driven s.cfg v + (s.cfg.tBit - Config.driven s.cfg v) = s.now + s.cfg.tBit := by omega
  exact congrArg (fun n => { s with
    drv := false, drvLog := (s.now + Config.driven s.cfg v, false) :: (s.now, true) :: s.drvLog, now := n }) hnow

theorem txStart_eq (s : State) :
    txStart s = { s with
      drv := false, drvLog := (s.now + s.cfg.tStartDriven, false) :: (s.now, true) :: s.drvLog,
      now := s.now + s.cfg.tStartDriven + s.cfg.tStartFloat } := rfl

/-- The pulses of the wire end like the operations of the codec (R109). -/
theorem exec_symbol (s : State) :
    exec .symbol1 s = .next (report .ok (txBit true s)) ∧ exec .symbol0 s = .next (report .ok (txBit false s)) ∧
      exec .symbolStart s = .next (report .ok (txStart s)) :=
  ⟨rfl, rfl, rfl⟩

/-- An ack slot on the wire is the codec operation of the station's role (R85). -/
theorem exec_ackSlot (s : State) :
    exec (.ackSlot .sender) s = exec .ackRead s ∧ exec (.ackSlot .receiver) s = exec .ackSend s :=
  ⟨rfl, rfl⟩

/-! ## The obligations -/

/-- Settles O53: every operation checks its operands first. -/
theorem reservedCodesAndIllegalOperandsOnlyReportBadOp :
    Obligations.ReservedCodesAndIllegalOperandsOnlyReportBadOp := by
  intro s
  refine ⟨?_, fun n v hn => exec_field_illegal (by rw [widthLegal_iff]; omega) v s,
    fun a ha => exec_action_illegal (Nat.not_le.mpr ha),
    fun sel v h h' => exec_wrTxf_none (writeTxf_unlisted s.txf v h h'),
    fun sel h => exec_rdReg_none (readReg_unlisted s h)⟩
  simp only [List.forall_mem_cons]
  exact ⟨rfl, rfl, rfl, rfl, rfl, rfl, List.forall_mem_nil _⟩

/-- Settles O54, selector by selector. -/
theorem writeTxfWritesOneField : Obligations.WriteTxfWritesOneField := by
  intro s v
  refine ⟨exec_wrTxf_some rfl, exec_wrTxf_some rfl, exec_wrTxf_some rfl, exec_wrTxf_some rfl, exec_wrTxf_some rfl,
    fun i hi => ⟨_, exec_wrTxf_some (writeTxf_payload s.txf hi v), rfl, Memory.read_write_self _ _ _, fun k hk => ?_⟩⟩
  exact Memory.read_write_other _ _ hk

/-- Settles O55: the listed registers, the payload bytes, and the two numbers of RESULT. -/
theorem readRegisterShowsEveryListedRegister : Obligations.ReadRegisterShowsEveryListedRegister := by
  intro s sel v h
  refine exec_rdReg_some ?_
  rcases h with h | ⟨i, hi, rfl, rfl⟩ | ⟨rfl, h⟩ | ⟨rfl, h⟩
  · exact readReg_listed s (sel, v) h
  · rw [readReg_payload s hi, some_setWidth_eq]
  · have hnumber : ∀ p ∈ [(ResCode.ok, 0), (.busy, 1), (.nak, 2), (.startShort, 3), (.startLong, 4), (.desync, 5),
        (.parity, 6), (.length, 7), (.badlen, 8), (.badop, 9), (.empty, 10), (.overflow, 11), (.dropped, 12)],
        p.1.number = p.2 := by decide
    rw [readReg_code, hnumber _ h]
  · have hnumber : ∀ p ∈ [(FieldPos.none, 0), (.start, 1), (.mode, 2), (.sender, 3), (.receiver, 4), (.addrAck, 5),
        (.control, 6), (.controlAck, 7), (.length, 8), (.lengthAck, 9), (.data, 10), (.dataAck, 11)],
        p.1.number = p.2 := by decide
    rw [readReg_field, hnumber _ h]

/-- Settles O56: bits, the start bit and both sides of the slot are the steps of the codec (`txBit_eq`,
`ackSend_held`). -/
theorem wireSymbolsAreTheCodecPulses : Obligations.WireSymbolsAreTheCodecPulses := by
  intro s h
  have ht := wf_timing h
  obtain ⟨hone, hzero, hstart⟩ := exec_symbol s
  obtain ⟨hsender, hreceiver⟩ := exec_ackSlot s
  refine ⟨by rw [hone, txBit_eq h]; rfl, by rw [hzero, txBit_eq h]; rfl, by rw [hstart, txStart_eq]; rfl,
    ⟨_, hsender.trans (exec_eq_after _ s), exec_eq_after _ s⟩,
    ⟨_, hreceiver.trans (exec_eq_after _ s), exec_eq_after _ s⟩, ?_⟩
  intro g hdrv hg hquiet hdriven hreleased
  have hslot := ackSend_held (n := s.now + g + s.cfg.t0Driven) (e := 0) hdrv hg rfl (by omega) hquiet
    (hdriven _ (Nat.le_refl _) (by omega)) (fun u _ _ => by omega) (hreleased _ (by omega) (by omega))
  have hexec : exec .ackSend s = .next (finish (ackSend s) fun _ t => t) := rfl
  rw [hreceiver, hexec, hslot]
  rfl

end Sys2Proof.Machine
end

section
/-! SUPPORT. The rows of the wire that send a head or a data group: what their steps put on the line with every slot
acknowledged and with the first one that is not (R82, R83, R117), and the state in which the row ends (R109). -/

namespace Sys2Proof.Machine

/-! ## The end of a row -/

/-- A step of a bus operation as an update of the state it begins in. -/
theorem Advances.eq_update {s t : State} (ha : Advances s t) :
    t = { s with drv := t.drv, drvLog := t.drvLog, seq := t.seq, shift := t.shift, bitcnt := t.bitcnt, idx := t.idx,
                 wfr := t.wfr, par := t.par, dur := t.dur, now := t.now } :=
  State.ext ha.cfg ha.rxf ha.txf rfl rfl rfl rfl ha.att rfl rfl ha.masked ha.tickLatch ha.respPending rfl ha.timerBase
    rfl ha.result ha.act ha.val ha.ds ha.slots ha.qw ha.qr ha.ovfCount ha.dropCount rfl ha.env ha.arrivals ha.inputs
    ha.diag rfl ha.draws

/-- What the steps of a row keep (`Advances`), what they write, and that a row that is sent whole releases the line. -/
structure SendsRow (s : State) (r : Res Unit) : Prop where
  advances : r.Ends (Advances s)
  writes : r.Ends (WritesOnly (groupParts true) s)
  released : r.Returns fun _ t => t.drv = false

/-- A row that has been sent whole: time and DUR are as its steps left them. -/
theorem SendsRow.finish_ok {s t v : State} {r : Res Unit} {n d : Nat} (h : SendsRow s r) (ht : r = .ok () t)
    (hn : t.now = n) (hd : t.dur = d) (hv : v = finishWire r) :
    v = { s with drv := false, drvLog := v.drvLog, seq := .idle, shift := v.shift, bitcnt := v.bitcnt, dur := d,
                 now := n, result := ResultReg.okay } := by
  subst ht
  have hw : WritesOnly (groupParts true) s t := h.writes
  obtain ⟨hidx, hwfr⟩ := Prod.mk.inj (show (t.idx, t.wfr) = (s.idx, s.wfr) from hw .work (by decide))
  have hpar : t.par = s.par := hw .par (by decide)
  have hdrv : t.drv = false := h.released
  have hupdate := Advances.eq_update h.advances
  rw [hidx, hwfr, hpar, hdrv] at hupdate
  subst hv hn hd
  exact congrArg (fun u => seqIdle (setResult ResultReg.okay u)) hupdate

/-- A state v in which an error has been recorded and emitted, with the record of DRV and the scratch registers of r
(R109, U7). -/
def withError (e : ResultReg) (r v : State) : State :=
  { v with drv := false, drvLog := r.drvLog, seq := .idle, shift := r.shift, bitcnt := r.bitcnt, idx := r.idx,
           wfr := r.wfr, draws := r.draws, result := e, diag := v.diag ++ [e] }

/-- A row that an error has cut off: time and DUR are as its steps left them. -/
theorem SendsRow.finish_err {s t v : State} {r : Res Unit} {e : ResultReg} {n d : Nat} (h : SendsRow s r)
    (ht : r = .err e t) (hn : t.now = n) (hd : t.dur = d) (hv : v = finishWire r) :
    v = withError e v { s with dur := d, now := n } := by
  subst ht
  have hw : WritesOnly (groupParts true) s t := h.writes
  have hpar : t.par = s.par := hw .par (by decide)
  have hupdate := Advances.eq_update h.advances
  rw [hpar] at hupdate
  subst hv hn hd
  have habort : finishWire (.err e t) = withError e (finishWire (.err e t)) t := rfl
  have hended := congrArg (withError e (finishWire (.err e t))) hupdate
  exact habort.trans hended

theorem drvAt_finishWire_ok {s t : State} {xs : List (Symbol × Nat)} (he : EmitsHeld s t xs) {u : Nat}
    (hu : s.now ≤ u) :
    drvAt (finishWire (.ok () t)).drvLog u = envDrives (heldWave s.cfg s.now xs) u :=
  he.wave u hu

/-- The release of the line at the end of a row adds nothing to what its steps put on it. -/
theorem drvAt_finishWire_err {s t : State} {e : ResultReg} {xs : List (Symbol × Nat)} (h : s.cfg.wf = true)
    (he : EmitsHeld s t xs) {u : Nat} (hu : s.now ≤ u) :
    drvAt (finishWire (.err e t)).drvLog u = envDrives (heldWave s.cfg s.now xs) u := by
  show drvAt ((t.now, false) :: t.drvLog) u = _
  by_cases hend : t.now ≤ u
  · rw [drvAt_cons_le _ _ _ hend, heldWave_after h _ _ (he.time ▸ hend)]
  · rw [drvAt_cons_gt _ _ _ (Nat.lt_of_not_le hend), he.wave u hu]

/-- The delay after the last symbol does not show on the line. -/
theorem heldWave_last (c : Config) (t : Nat) (xs : List (Symbol × Nat)) (x : Symbol) (o o' : Nat) :
    heldWave c t (xs ++ [(x, o)]) = heldWave c t (xs ++ [(x, o')]) := by
  simp only [heldWave_append, heldWave]

/-! ## Slots -/

/-- A slot ends in the state of ACK_READ, acknowledged or not (R147). -/
theorem txAck_ends {P : State → Prop} {f : FieldPos} {i : BitVec 6} {s : State} (h : P (ackRead (sendAt f s)).2) :
    (txAck true f i s).Ends P := by
  simp only [txAck, if_true]
  split <;> exact h

theorem ackRead_released (s : State) : (ackRead s).2.drv = false := by
  have hwait := Advances.waitFor .recessive (s.cfg.rxTimeout - s.cfg.t1Driven)
    (setDrv false (waitTicks s.cfg.t1Driven (setDrv true s)))
  unfold ackRead
  dsimp only [setDrv_cfg, waitTicks_cfg]
  split
  next u hu => exact (hu ▸ hwait : Advances _ u).released rfl
  next e u hu => exact (hu ▸ hwait : Advances _ u).released rfl

theorem ackRead_dur_acked {s : State} (h : s.cfg.wf = true) {d : Nat} (hs : AckedFor s.cfg s.env s.now d) :
    (ackRead s).2.dur = d := by
  have ht := wf_timing h
  obtain ⟨hmin, hmax, hdrive, hrel⟩ := hs
  rw [ackRead_eq h (by omega) (by omega) hdrive hrel]

theorem ackRead_dur_unacked {s : State} (h : s.cfg.wf = true) {d : Nat} (hs : UnackedFor s.cfg s.env s.now d) :
    (ackRead s).2.dur = d := by
  obtain ⟨hmin, -, hdrive, ⟨hmax, hrel⟩ | rfl⟩ := hs
  · rw [ackRead_eq h hmin hmax hdrive hrel]
  · rw [ackRead_stuck h hdrive]

/-- The next slot after what has been sent, not acknowledged, with the duration that it leaves in DUR. -/
theorem slot_unacked {s0 s : State} {xs : List (Symbol × Nat)} (h : s0.cfg.wf = true) (e : EmitsHeld s0 s xs)
    (f : FieldPos) (i : BitVec 6) {d : Nat} (hs : UnackedFor s0.cfg s0.env (s0.now + heldTicks s0.cfg xs) d) :
    ∃ t, txAck true f i s = .err { code := .nak, field := f, index := i } t ∧
      EmitsHeld s0 t (xs ++ [(.one, d - s0.cfg.tBit)]) ∧ t.dur = d := by
  rw [← e.time, ← e.env, ← e.cfg] at hs
  have hwf : s.cfg.wf = true := e.cfg ▸ h
  obtain ⟨t, ht, he⟩ := txAck_unacked hwf f i hs
  have hdur := txAck_ends (P := (·.dur = d)) (f := f) (i := i) (ackRead_dur_unacked (s := sendAt f s) hwf hs)
  rw [ht] at hdur
  rw [e.cfg] at he
  exact ⟨t, ht, EmitsHeld.append h e he, hdur⟩

/-- The next slot after what has been sent, acknowledged, with the duration that it leaves in DUR. -/
theorem slot_acked {s0 s : State} {xs : List (Symbol × Nat)} (h : s0.cfg.wf = true) (e : EmitsHeld s0 s xs)
    (f : FieldPos) (i : BitVec 6) {d : Nat} (hs : AckedFor s0.cfg s0.env (s0.now + heldTicks s0.cfg xs) d) :
    ∃ t, txAck true f i s = .ok () t ∧ EmitsHeld s0 t (xs ++ [(.one, d - s0.cfg.tBit)]) ∧ t.dur = d := by
  rw [← e.time, ← e.env, ← e.cfg] at hs
  have hwf : s.cfg.wf = true := e.cfg ▸ h
  obtain ⟨t, ht, he⟩ := txAck_acked hwf f i hs
  have hdur := txAck_ends (P := (·.dur = d)) (f := f) (i := i) (ackRead_dur_acked (s := sendAt f s) hwf hs)
  rw [ht] at hdur
  rw [e.cfg] at he
  exact ⟨t, ht, EmitsHeld.append h e he, hdur⟩

/-- A step that ends in a slot, or in a field of a broadcast frame, has released the line. -/
theorem txAck_released (u : Bool) (f : FieldPos) (i : BitVec 6) {s : State} (h : s.drv = false) :
    (txAck u f i s).Ends (·.drv = false) := by
  cases u with
  | false => exact h
  | true => exact txAck_ends (ackRead_released _)

theorem txHead_row (u : Bool) (snd rcv : Addr) (ctl : BitVec 4) (len : BitVec 8) (s : State) :
    SendsRow s (txHead u snd rcv ctl len s) where
  advances := Advances.txHead u snd rcv ctl len s
  writes := (writes_txHead u snd rcv ctl len s).mono (by cases u <;> decide)
  released := .after _ fun _ _ => .after _ fun _ _ => (txAck_released u _ _ rfl).returns

theorem txData_row (u : Bool) (d : Byte) (s : State) : SendsRow s (txData u d 0#6 s) where
  advances := Advances.txData u d 0#6 s
  writes := (writes_txData u d 0#6 s).mono (by cases u <;> decide)
  released := (txAck_released u _ _ rfl).returns

/-- A slot that is held for d ticks takes at least its bit period (R117). -/
theorem heldTicks_slot (c : Config) (xs : List (Symbol × Nat)) (d : Nat) :
    heldTicks c (xs ++ [(.one, d - c.tBit)]) = heldTicks c xs + max d c.tBit := by
  simp only [heldTicks_append, heldTicks_cons, heldTicks_nil, symbolTicks]
  omega

/-! ## Data groups -/

/-- The byte of a data group and its parity bit (R83). -/
theorem data_sent {s : State} (h : s.cfg.wf = true) (d : Byte) :
    EmitsHeld s (txField 8 (d.setWidth 12) (sendAt .data s)) ((fieldSymbols 8 d).map fun x => (x, 0)) := by
  have hfield : Emits s (txField 8 (d.setWidth 12) (sendAt .data s)) (fieldSymbols 8 (d.setWidth 12)) :=
    (Emits.txField (by omega) (by omega) _ (s := sendAt .data s) h).sendAt _
  rw [fieldSymbols_setWidth 8 d 12 (by omega)] at hfield
  exact hfield.held

theorem data_ticks (c : Config) (d : Byte) :
    heldTicks c ((fieldSymbols 8 d).map fun x => (x, 0)) = 9 * c.tBit := by
  rw [heldTicks_plain, waveTicks_field]

/-- On the line a unicast group is its nominal symbols, however long its slot is held. -/
theorem groupWave_held (c : Config) (t : Nat) (d : Byte) (o : Nat) :
    heldWave c t ((fieldSymbols 8 d).map (fun x => (x, 0)) ++ [(.one, o)]) = waveOf c t (groupSymbols true d) := by
  rw [heldWave_last c t _ .one o 0, ← heldWave_plain]
  simp [groupSymbols, slotSymbols]


theorem exec_dataGroup (d : Byte) (s : State) :
    exec (.dataGroupBroadcast d) s = .next (finishWire (txData false d 0#6 s)) ∧
      exec (.dataGroupUnicast d) s = .next (finishWire (txData true d 0#6 s)) :=
  ⟨rfl, rfl⟩

/-- Settles O58: the byte (`data_sent`), then the slot, acknowledged (`slot_acked`) or not (`slot_unacked`). -/
theorem dataGroupsAreSentSymbolBySymbol : Obligations.DataGroupsAreSentSymbolBySymbol := by
  intro s b n h hn
  obtain ⟨hbroadcast, hunicast⟩ := exec_dataGroup b s
  have hfield := data_sent h b
  have hslot : s.now + heldTicks s.cfg ((fieldSymbols 8 b).map fun x => (x, 0)) = n := by rw [data_ticks, hn]
  refine ⟨⟨_, hbroadcast, ?_, fun u hu => ?_⟩, fun d hs => ?_, fun d hs => ?_⟩
  · exact (txData_row false b s).finish_ok rfl (hfield.time.trans hslot)
      (writes_sendField .data 8 (b.setWidth 12) s .dur (by decide)) rfl
  · refine (drvAt_finishWire_ok hfield hu).trans ?_
    rw [heldWave_plain]
    simp [groupSymbols, slotSymbols]
  · obtain ⟨t, ht, hsent, hdur⟩ := slot_acked h hfield .dataAck 0#6 (hslot ▸ hs)
    have ht : txData true b 0#6 s = .ok () t := ht
    have hnow : t.now = n + max d s.cfg.tBit := by rw [hsent.time, heldTicks_slot, ← Nat.add_assoc, hslot]
    refine ⟨_, hunicast, (txData_row true b s).finish_ok ht hnow hdur rfl, fun u hu => ?_⟩
    rw [ht, drvAt_finishWire_ok hsent hu, groupWave_held]
  · obtain ⟨t, ht, hsent, hdur⟩ := slot_unacked h hfield .dataAck 0#6 (hslot ▸ hs)
    have ht : txData true b 0#6 s = .err _ t := ht
    have hnow : t.now = n + max d s.cfg.tBit := by rw [hsent.time, heldTicks_slot, ← Nat.add_assoc, hslot]
    refine ⟨_, hunicast, (txData_row true b s).finish_err ht hnow hdur rfl, fun u hu => ?_⟩
    rw [ht, drvAt_finishWire_err h hsent hu, groupWave_held]


/-! ## Heads -/

/-- The symbols of a head up to its second address, before the first slot (R82). -/
def addressSymbols (c : Config) (u : Bool) (snd rcv : Addr) : List Symbol :=
  [.start, Symbol.ofBit (c.modeBit u)] ++ fieldSymbols 12 snd ++ fieldSymbols 12 rcv

/-- The symbols of a unicast head up to its control field, before the second slot. -/
def controlSymbols (c : Config) (snd rcv : Addr) (ctl : BitVec 4) : List Symbol :=
  addressSymbols c true snd rcv ++ [.one] ++ fieldSymbols 4 ctl

/-- The symbols of a unicast head up to its length field, before the third slot. -/
def lengthSymbols (c : Config) (snd rcv : Addr) (ctl : BitVec 4) (len : BitVec 8) : List Symbol :=
  controlSymbols c snd rcv ctl ++ [.one] ++ fieldSymbols 8 len

theorem headSymbols_eq (c : Config) (snd rcv : Addr) (ctl : BitVec 4) (len : BitVec 8) :
    headSymbols c true snd rcv ctl len = lengthSymbols c snd rcv ctl len ++ [.one] := rfl

/-- Symbols that end before slot k: the start bit and `k - 1` bit periods (R83). -/
def EndsBeforeSlot (c : Config) (k : Nat) (syms : List Symbol) : Prop :=
  syms.length = k ∧ waveTicks c syms = c.tStartDriven + c.tStartFloat + (k - 1) * c.tBit

theorem addressSymbols_ends (c : Config) (u : Bool) (snd rcv : Addr) :
    EndsBeforeSlot c 28 (addressSymbols c u snd rcv) :=
  ⟨by simp [addressSymbols, fieldSymbols], head_ticks c _ snd rcv⟩

/-- A slot and a field of n bits after what ends before a slot. -/
theorem EndsBeforeSlot.next {w : Nat} {c : Config} {k : Nat} {syms : List Symbol} (h : EndsBeforeSlot c k syms)
    (hk : 0 < k) (n : Nat) (v : BitVec w) : EndsBeforeSlot c (k + n + 2) (syms ++ [.one] ++ fieldSymbols n v) := by
  obtain ⟨hlength, hticks⟩ := h
  refine ⟨by simp [hlength, fieldSymbols]; omega, ?_⟩
  obtain ⟨j, rfl⟩ : ∃ j, k = j + 1 := ⟨k - 1, by omega⟩
  rw [waveTicks_append, waveTicks_append, hticks, waveTicks_field, waveTicks_cons, waveTicks_nil]
  simp only [symbolTicks, Nat.add_sub_cancel, show j + 1 + n + 2 - 1 = j + 1 + (n + 1) by omega, Nat.add_mul]
  omega

theorem controlSymbols_ends (c : Config) (snd rcv : Addr) (ctl : BitVec 4) :
    EndsBeforeSlot c 34 (controlSymbols c snd rcv ctl) :=
  (addressSymbols_ends c true snd rcv).next (by decide) 4 ctl

theorem lengthSymbols_ends (c : Config) (snd rcv : Addr) (ctl : BitVec 4) (len : BitVec 8) :
    EndsBeforeSlot c 44 (lengthSymbols c snd rcv ctl len) :=
  (controlSymbols_ends c snd rcv ctl).next (by decide) 8 len

theorem EndsBeforeSlot.take {c : Config} {k : Nat} {syms head : List Symbol} (h : EndsBeforeSlot c k syms)
    (hhead : syms ++ [Symbol.one] <+: head) : head.take (k + 1) = syms ++ [Symbol.one] := by
  rw [List.prefix_iff_eq_take.mp hhead, List.length_append, h.1]
  rfl

theorem EndsBeforeSlot.heldTime {c : Config} {k : Nat} {syms : List Symbol} (h : EndsBeforeSlot c k syms)
    (late : Nat → Nat) (t0 : Nat) : t0 + heldTicks c (held late syms) = heldTime c late t0 k := by
  obtain ⟨rfl, hticks⟩ := h
  exact (heldTime_eq c late t0 syms hticks).symm


/-- Slot k is acknowledged, and holds up what follows as `late` says. -/
def SlotAcked (s : State) (late : Nat → Nat) (k : Nat) : Prop :=
  ∃ d, AckedFor s.cfg s.env (heldTime s.cfg late s.now k) d ∧ late k = d - s.cfg.tBit

/-- A slot of the head that is acknowledged, and the field that follows it. -/
theorem slot_field_held {s0 s : State} {late : Nat → Nat} {k : Nat} {syms : List Symbol} (h : s0.cfg.wf = true)
    (hends : EndsBeforeSlot s0.cfg k syms) (e : EmitsHeld s0 s (held late syms)) (hs : SlotAcked s0 late k)
    (f p : FieldPos) {n w : Nat} (hn : 0 < n) (hn' : n ≤ 12) (v : BitVec w)
    (hlate : ∀ j, k < j → j ≤ k + n + 1 → late j = 0) :
    ∃ t, txAck true f 0#6 s = .ok () t ∧
      EmitsHeld s0 (txField n (v.setWidth 12) (sendAt p t)) (held late (syms ++ [.one] ++ fieldSymbols n v)) := by
  obtain ⟨d, hd, hk⟩ := hs
  obtain ⟨t, ht, he⟩ := slot_next_held h e f 0#6 (hends.heldTime late s0.now ▸ hd) (hends.1 ▸ hk)
  have hlength : (syms ++ [Symbol.one]).length = k + 1 := by rw [List.length_append, hends.1]; rfl
  have hfield := field_next_held h he hn hn' (v.setWidth 12) p fun j hj hj' => hlate j (by omega) (by omega)
  rw [fieldSymbols_setWidth n v 12 hn'] at hfield
  exact ⟨t, ht, hfield⟩

/-- The steps of a head up to its second address (R146). -/
def sendAddresses (u : Bool) (snd rcv : Addr) (s : State) : State :=
  txField 12 rcv (sendAt .receiver (txField 12 snd (sendAt .sender
    (txBit ((txStart (sendAt .start s)).cfg.modeBit u) (sendAt .mode (txStart (sendAt .start s)))))))

/-- The steps of a head: the addresses, and the fields between its slots (R146). -/
theorem txHead_eq (u : Bool) (snd rcv : Addr) (ctl : BitVec 4) (len : BitVec 8) (s : State) :
    txHead u snd rcv ctl len s =
      (txAck u .addrAck 0#6 (sendAddresses u snd rcv s)).andThen fun _ s =>
        (txAck u .controlAck 0#6 (txField 4 (ctl.setWidth 12) (sendAt .control s))).andThen fun _ s =>
          txAck u .lengthAck 0#6 (txField 8 (len.setWidth 12) (sendAt .length s)) := rfl

/-- Symbols that nothing holds up. -/
theorem held_plain {late : Nat → Nat} {syms : List Symbol} (h : ∀ j < syms.length, late j = 0) :
    held late syms = syms.map fun x => (x, 0) :=
  heldFrom_plain late syms 0 fun j _ hj => h j (by omega)

/-- A head reaches a slot: its symbols up to the slot have been sent, and an error of the slot is that of the head. -/
def ReachesSlot (s : State) (r : Res Unit) (f : FieldPos) (sent : List (Symbol × Nat)) : Prop :=
  ∃ a, EmitsHeld s a sent ∧ ∀ e t, txAck true f 0#6 a = .err e t → r = .err e t

section

variable {s : State} {late : Nat → Nat} (h : s.cfg.wf = true)
  (hlate : ∀ j, j ≠ 28 → j ≠ 34 → j ≠ 44 → late j = 0) (snd rcv : Addr) (ctl : BitVec 4) (len : BitVec 8)
include h hlate

theorem sendAddresses_held (u : Bool) :
    EmitsHeld s (sendAddresses u snd rcv s) (held late (addressSymbols s.cfg u snd rcv)) := by
  have hlength := (addressSymbols_ends s.cfg u snd rcv).1
  rw [held_plain fun j hj => hlate j (by omega) (by omega) (by omega)]
  exact (addresses_sent h u snd rcv).held

theorem reaches_addrAck :
    ReachesSlot s (txHead true snd rcv ctl len s) .addrAck (held late (addressSymbols s.cfg true snd rcv)) :=
  ⟨_, sendAddresses_held h hlate snd rcv true, fun e t ht => by rw [txHead_eq, ht, Res.andThen_err]⟩

/-- The head after an acknowledged first slot, up to the second one. -/
theorem control_held (h28 : SlotAcked s late 28) :
    ∃ a, txAck true .addrAck 0#6 (sendAddresses true snd rcv s) = .ok () a ∧
      EmitsHeld s (txField 4 (ctl.setWidth 12) (sendAt .control a)) (held late (controlSymbols s.cfg snd rcv ctl)) :=
  slot_field_held h (addressSymbols_ends s.cfg true snd rcv) (sendAddresses_held h hlate snd rcv true) h28 _ _ (n := 4)
    (by decide) (by decide) ctl fun j hj hj' => hlate j (by omega) (by omega) (by omega)

theorem reaches_controlAck (h28 : SlotAcked s late 28) :
    ReachesSlot s (txHead true snd rcv ctl len s) .controlAck (held late (controlSymbols s.cfg snd rcv ctl)) := by
  obtain ⟨a, ha, hsent⟩ := control_held h hlate snd rcv ctl h28
  exact ⟨_, hsent, fun e t ht => by rw [txHead_eq, ha, Res.andThen_ok, ht, Res.andThen_err]⟩

/-- The head after two acknowledged slots, up to the third one. -/
theorem length_held (h28 : SlotAcked s late 28) (h34 : SlotAcked s late 34) :
    ∃ b, EmitsHeld s (txField 8 (len.setWidth 12) (sendAt .length b))
        (held late (lengthSymbols s.cfg snd rcv ctl len)) ∧
      txHead true snd rcv ctl len s = txAck true .lengthAck 0#6 (txField 8 (len.setWidth 12) (sendAt .length b)) := by
  obtain ⟨a, ha, hsent⟩ := control_held h hlate snd rcv ctl h28
  obtain ⟨b, hb, hsent'⟩ := slot_field_held h (controlSymbols_ends s.cfg snd rcv ctl) hsent h34 .controlAck .length
    (n := 8) (by decide) (by decide) len fun j hj hj' => hlate j (by omega) (by omega) (by omega)
  exact ⟨b, hsent', by rw [txHead_eq, ha, Res.andThen_ok, hb, Res.andThen_ok]⟩

theorem reaches_lengthAck (h28 : SlotAcked s late 28) (h34 : SlotAcked s late 34) :
    ReachesSlot s (txHead true snd rcv ctl len s) .lengthAck (held late (lengthSymbols s.cfg snd rcv ctl len)) := by
  obtain ⟨b, hsent, hhead⟩ := length_held h hlate snd rcv ctl len h28 h34
  exact ⟨_, hsent, fun e t ht => by rw [hhead, ht]⟩

/-- A unicast head whose slots are all acknowledged is sent whole (R146). -/
theorem txHead_acked (h28 : SlotAcked s late 28) (h34 : SlotAcked s late 34) (h44 : SlotAcked s late 44) :
    ∃ t, txHead true snd rcv ctl len s = .ok () t ∧
      EmitsHeld s t (held late (headSymbols s.cfg true snd rcv ctl len)) := by
  obtain ⟨b, hsent, hhead⟩ := length_held h hlate snd rcv ctl len h28 h34
  obtain ⟨d, hd, hk⟩ := h44
  have hends := lengthSymbols_ends s.cfg snd rcv ctl len
  obtain ⟨t, ht, he⟩ := slot_next_held h hsent .lengthAck 0#6 (hends.heldTime late s.now ▸ hd) (hends.1 ▸ hk)
  exact ⟨t, hhead.trans ht, he⟩

end

/-- A slot that is reached and not acknowledged ends the head with NAK there (R146). -/
theorem ReachesSlot.unacked {s : State} {r : Res Unit} {f : FieldPos} {late : Nat → Nat} {k d : Nat}
    {syms : List Symbol} (h : s.cfg.wf = true) (hr : ReachesSlot s r f (held late syms))
    (hends : EndsBeforeSlot s.cfg k syms)
    (hd : UnackedFor s.cfg s.env (heldTime s.cfg late s.now k) d) :
    ∃ t, r = .err { code := .nak, field := f, index := 0#6 } t ∧
      EmitsHeld s t (held late syms ++ [(.one, d - s.cfg.tBit)]) ∧ t.dur = d := by
  obtain ⟨a, hsent, herr⟩ := hr
  obtain ⟨t, ht, he, hdur⟩ := slot_unacked h hsent f 0#6 (hends.heldTime late s.now ▸ hd)
  exact ⟨t, herr _ t ht, he, hdur⟩


/-- A head that a slot cuts off: NAK there, the symbols up to the slot on the line, and time to the end of the slot. -/
theorem head_cut {s v : State} {f : FieldPos} {late : Nat → Nat} {k d : Nat} {syms head : List Symbol} {r : Res Unit}
    (h : s.cfg.wf = true) (hrow : SendsRow s r) (hreach : ReachesSlot s r f (held late syms))
    (hends : EndsBeforeSlot s.cfg k syms) (hhead : syms ++ [Symbol.one] <+: head) (hk : late k = 0)
    (hd : UnackedFor s.cfg s.env (heldTime s.cfg late s.now k) d) (hv : v = finishWire r) :
    v = withError { code := .nak, field := f, index := 0#6 } v
        { s with dur := d, now := heldTime s.cfg late s.now k + max d s.cfg.tBit } ∧
      ∀ u, s.now ≤ u → drvAt v.drvLog u = envDrives (heldWave s.cfg s.now (held late (head.take (k + 1)))) u := by
  obtain ⟨t, ht, hsent, hdur⟩ := hreach.unacked h hends hd
  have hnow : t.now = heldTime s.cfg late s.now k + max d s.cfg.tBit := by
    rw [hsent.time, heldTicks_slot, ← Nat.add_assoc, hends.heldTime]
  refine ⟨hrow.finish_err ht hnow hdur hv, fun u hu => ?_⟩
  rw [hv, ht, drvAt_finishWire_err h hsent hu, hends.take hhead, held_append_one, hends.1, hk, heldWave_last]

/-- The slots of a head hold up the frame, and nothing else does. -/
theorem sum_late_head {late : Nat → Nat} (h : ∀ j, j ≠ 28 → j ≠ 34 → j ≠ 44 → late j = 0) :
    ((List.range 45).map late).sum = (headAckSlots.map fun p => late p.1).sum := by
  simp [List.range_succ, headAckSlots, h]

/-- The slots of a head; a broadcast frame has none (R82). -/
def headSlots (u : Bool) : List Place := if u then headAckSlots else []

theorem late_eq_zero {c : Config} {env : List (Nat × Nat)} {t0 : Nat} {slots : List Place} {late : Nat → Nat}
    (h : SlotsHeld c env t0 slots late) (hslots : ∀ p ∈ slots, p ∈ headAckSlots) {j : Nat} (h28 : j ≠ 28) (h34 : j ≠ 34)
    (h44 : j ≠ 44) : late j = 0 := by
  refine h.2 j fun p hp hj => ?_
  have hall : ∀ q ∈ headAckSlots, q.1 = 28 ∨ q.1 = 34 ∨ q.1 = 44 := by decide
  have := hall p (hslots p hp)
  omega

/-- A head whose slots are all acknowledged is sent whole, in either mode. -/
theorem txHead_completes {s : State} {late : Nat → Nat} (h : s.cfg.wf = true) (u : Bool) (snd rcv : Addr)
    (ctl : BitVec 4) (len : BitVec 8) (hs : SlotsHeld s.cfg s.env s.now (headSlots u) late) :
    ∃ t, txHead u snd rcv ctl len s = .ok () t ∧
      EmitsHeld s t (held late (headSymbols s.cfg u snd rcv ctl len)) ∧
      t.now = s.now + (s.cfg.tStartDriven + s.cfg.tStartFloat) + (if u then 44 else 41) * s.cfg.tBit +
        ((headSlots u).map fun p => late p.1).sum := by
  cases u with
  | true =>
    have hlate : ∀ j, j ≠ 28 → j ≠ 34 → j ≠ 44 → late j = 0 := fun j => late_eq_zero hs fun p hp => hp
    obtain ⟨t, ht, he⟩ := txHead_acked h hlate snd rcv ctl len (hs.1 (28, .addrAck, 0#6) (by decide))
      (hs.1 (34, .controlAck, 0#6) (by decide)) (hs.1 (44, .lengthAck, 0#6) (by decide))
    refine ⟨t, ht, he, ?_⟩
    rw [he.time, heldTicks_held, headSymbols_ticks, headSymbols_length]
    simp only [if_true, headSlots, sum_late_head hlate]
    omega
  | false =>
    have hlate : ∀ j, late j = 0 := fun j => hs.2 j fun p hp => absurd hp List.not_mem_nil
    obtain ⟨t, ht, he⟩ := txHead_sent h false snd rcv ctl len nofun
    refine ⟨t, ht, by rw [held_plain fun j _ => hlate j]; exact he.held, ?_⟩
    rw [he.time, headSymbols_ticks]
    simp only [headSlots, Bool.false_eq_true, if_false, List.map_nil, List.sum_nil]
    omega

/-- A head on the wire runs its steps, or refuses an illegal length (R88). -/
theorem exec_head (u : Bool) (snd rcv : Addr) (ctl : BitVec 4) (len : BitVec 8) (s : State) :
    exec (headInstr u snd rcv ctl len) s = .next (headOp u snd rcv ctl len s) := by
  cases u <;> rfl

theorem headOp_legal (u : Bool) (snd rcv : Addr) (ctl : BitVec 4) {len : BitVec 8} (s : State) (h : 1 ≤ len.toNat)
    (h' : len.toNat ≤ 32) : headOp u snd rcv ctl len s = finishWire (txHead u snd rcv ctl len s) :=
  if_pos ((lengthLegal_iff _).mpr ⟨h, h'⟩)

theorem headOp_illegal (u : Bool) (snd rcv : Addr) (ctl : BitVec 4) {len : BitVec 8} (s : State)
    (h : len.toNat = 0 ∨ 32 < len.toNat) :
    headOp u snd rcv ctl len s = { s with result := raised .badlen, diag := s.diag ++ [raised .badlen] } :=
  if_neg (by rw [lengthLegal_iff]; omega)

/-- The symbols of a head up to each of its slots are the beginning of the head. -/
theorem symbols_begin_head (c : Config) (snd rcv : Addr) (ctl : BitVec 4) (len : BitVec 8) :
    addressSymbols c true snd rcv ++ [Symbol.one] <+: headSymbols c true snd rcv ctl len ∧
      controlSymbols c snd rcv ctl ++ [Symbol.one] <+: headSymbols c true snd rcv ctl len ∧
      lengthSymbols c snd rcv ctl len ++ [Symbol.one] <+: headSymbols c true snd rcv ctl len := by
  have hlength : lengthSymbols c snd rcv ctl len <+: headSymbols c true snd rcv ctl len := List.prefix_append _ _
  have hcontrol : controlSymbols c snd rcv ctl ++ [Symbol.one] <+: lengthSymbols c snd rcv ctl len :=
    List.prefix_append _ _
  have haddress : addressSymbols c true snd rcv ++ [Symbol.one] <+: controlSymbols c snd rcv ctl :=
    List.prefix_append _ _
  exact ⟨haddress.trans ((List.prefix_append _ _).trans (hcontrol.trans hlength)), hcontrol.trans hlength,
    List.prefix_rfl⟩

/-- The slots of a head, each with the slots before it. -/
theorem headAckSlots_split {pre post : List Place} {k : Nat} {f : FieldPos} {x : BitVec 6}
    (h : headAckSlots = pre ++ (k, f, x) :: post) :
    x = 0#6 ∧ ((pre = [] ∧ k = 28 ∧ f = .addrAck) ∨ (pre = [(28, .addrAck, 0#6)] ∧ k = 34 ∧ f = .controlAck) ∨
      (pre = [(28, .addrAck, 0#6), (34, .controlAck, 0#6)] ∧ k = 44 ∧ f = .lengthAck)) := by
  match pre with
  | [] => simp_all [headAckSlots]
  | [a] =>
    obtain ⟨rfl, ⟨rfl, rfl, rfl⟩, -⟩ : _ = a ∧ (_ = k ∧ _ = f ∧ _ = x) ∧ _ := by simpa [headAckSlots] using h
    simp
  | [a, b] =>
    obtain ⟨rfl, rfl, ⟨rfl, rfl, rfl⟩, -⟩ : _ = a ∧ _ = b ∧ (_ = k ∧ _ = f ∧ _ = x) ∧ _ := by
      simpa [headAckSlots] using h
    simp
  | a :: b :: c :: pre => simp [headAckSlots] at h

/-- The first slot of a head that is not acknowledged: the head reaches it, and its symbols end there. -/
theorem head_reaches_slot {s : State} {late : Nat → Nat} (h : s.cfg.wf = true) (snd rcv : Addr) (ctl : BitVec 4)
    (len : BitVec 8) {pre post : List Place} {k : Nat} {f : FieldPos} {x : BitVec 6}
    (hslots : headAckSlots = pre ++ (k, f, x) :: post) (hs : SlotsHeld s.cfg s.env s.now pre late) :
    x = 0#6 ∧ late k = 0 ∧ ∃ syms, syms ++ [Symbol.one] <+: headSymbols s.cfg true snd rcv ctl len ∧
      EndsBeforeSlot s.cfg k syms ∧ ReachesSlot s (txHead true snd rcv ctl len s) f (held late syms) := by
  have hlate : ∀ j, j ≠ 28 → j ≠ 34 → j ≠ 44 → late j = 0 :=
    fun j => late_eq_zero hs fun p hp => hslots ▸ List.mem_append_left _ hp
  obtain ⟨haddress, hcontrol, hlength⟩ := symbols_begin_head s.cfg snd rcv ctl len
  obtain ⟨hacked, hrest⟩ := hs
  obtain ⟨rfl, hcases⟩ := headAckSlots_split hslots
  rcases hcases with ⟨rfl, rfl, rfl⟩ | ⟨rfl, rfl, rfl⟩ | ⟨rfl, rfl, rfl⟩
  · exact ⟨rfl, hrest 28 (by decide), addressSymbols s.cfg true snd rcv, haddress,
      addressSymbols_ends s.cfg true snd rcv, reaches_addrAck h hlate snd rcv ctl len⟩
  · have h28 : SlotAcked s late 28 := hacked (28, .addrAck, 0#6) (by decide)
    exact ⟨rfl, hrest 34 (by decide), controlSymbols s.cfg snd rcv ctl, hcontrol,
      controlSymbols_ends s.cfg snd rcv ctl, reaches_controlAck h hlate snd rcv ctl len h28⟩
  · have h28 : SlotAcked s late 28 := hacked (28, .addrAck, 0#6) (by decide)
    have h34 : SlotAcked s late 34 := hacked (34, .controlAck, 0#6) (by decide)
    exact ⟨rfl, hrest 44 (by decide), lengthSymbols s.cfg snd rcv ctl len, hlength,
      lengthSymbols_ends s.cfg snd rcv ctl len, reaches_lengthAck h hlate snd rcv ctl len h28 h34⟩

/-- Settles O57: a head whose slots are acknowledged is sent whole (`txHead_completes`), one that reaches a slot without
an acknowledgment is cut there (`head_reaches_slot`, `head_cut`), and one of an illegal length is not begun. -/
theorem frameHeadsAreSentSymbolBySymbol : Obligations.FrameHeadsAreSentSymbolBySymbol := by
  intro s u snd rcv ctl len i slots late h hi hslots
  have hexec : exec i s = .next (headOp u snd rcv ctl len s) := hi ▸ exec_head u snd rcv ctl len s
  have hrow := txHead_row u snd rcv ctl len s
  refine ⟨fun hmin hmax hs => ?_, fun hmin hmax pre post k d f x hsplit hs hd => ?_, fun hillegal => ?_⟩
  · rw [headOp_legal u snd rcv ctl s hmin hmax] at hexec
    obtain ⟨t, ht, hsent, hnow⟩ := txHead_completes h u snd rcv ctl len (hslots ▸ hs)
    refine ⟨_, hexec, hslots ▸ hrow.finish_ok ht hnow ?_ rfl, fun v hv => ?_⟩
    · rw [ht]
      rfl
    · rw [ht, drvAt_finishWire_ok hsent hv]
  · rw [headOp_legal u snd rcv ctl s hmin hmax] at hexec
    cases u with
    | false => simp [hslots] at hsplit
    | true =>
      obtain ⟨rfl, hk, syms, hhead, hends, hreach⟩ :=
        head_reaches_slot h snd rcv ctl len (hslots.symm.trans hsplit) hs
      exact ⟨_, hexec, head_cut h hrow hreach hends hhead hk hd rfl⟩
  · rw [hexec, headOp_illegal u snd rcv ctl s hillegal]

end Sys2Proof.Machine
end

section
/-! SUPPORT. The operations of the Bit Codec at the host port (R109): the whole state after each of them, for a pulse that
it sends or hears and for every way in which it fails. -/

namespace Sys2Proof.Machine

/-! ## The operations at the host port (R109) -/

theorem exec_txBit (v : Bool) (s : State) : exec (.txBit v) s = .next (report .ok (txBit v s)) := rfl

theorem exec_txStart (s : State) : exec .txStart s = .next (report .ok (txStart s)) := rfl

theorem exec_txField {n : BitVec 4} (h1 : 1 ≤ n.toNat) (h2 : n.toNat ≤ 12) (v : BitVec 12) (s : State) :
    exec (.txField n v) s = .next (report .ok (txField n.toNat v s)) :=
  congrArg Host.Outcome.next (if_pos ((widthLegal_iff n).mpr ⟨h1, h2⟩))

theorem exec_rxBit (s : State) :
    exec .rxBit s = .next (finish (rxBit s) fun b t => { t with val := bitVal b }) := rfl

theorem exec_rxField {n : BitVec 4} (h1 : 1 ≤ n.toNat) (h2 : n.toNat ≤ 12) (s : State) :
    exec (.rxField n) s = .next (finish (rxField n.toNat s) fun v t => { t with val := v }) :=
  congrArg Host.Outcome.next (if_pos ((widthLegal_iff n).mpr ⟨h1, h2⟩))

theorem exec_rxStart (s : State) : exec .rxStart s = .next (finish (rxStart s) fun _ t => t) := rfl

theorem exec_ackRead (s : State) :
    exec .ackRead s = .next (report .ok { (ackRead s).2 with val := bitVal (ackRead s).1 }) := rfl

theorem exec_ackSend (s : State) : exec .ackSend s = .next (finish (ackSend s) fun _ t => t) := rfl

theorem bitVal_decide (p : Prop) [Decidable p] : bitVal (decide p) = if p then 1#12 else 0#12 := by
  by_cases h : p <;> simp [h, bitVal]

/-! ## Transmitted pulses (R110, R111, R112) -/

/-- Settles O15: the whole state is `txBit_eq`, and the line is the pulse of `drvAt_drive`. -/
theorem transmittedBitIsOnePulse : Obligations.TransmittedBitIsOnePulse := by
  intro s v d t h hd ht
  have hstate : report .ok (txBit v s) = t := by
    rw [txBit_eq h, ht, hd]
    rfl
  refine ⟨(exec_txBit v s).trans (congrArg _ hstate), fun u hu => ?_, fun u hu => ?_⟩
  · rw [ht, drvAt_drive _ _ _ _ hu, decide_eq_true_iff]
  · rw [ht, drvAt_drive_before _ _ _ _ hu]

/-- Settles O16: the whole state is `txStart_eq`, and the line is the pulse of `drvAt_drive`. -/
theorem transmittedStartBitIsOneLongPulse : Obligations.TransmittedStartBitIsOneLongPulse := by
  intro s t ht
  have hstate : report .ok (txStart s) = t := by
    rw [txStart_eq, ht]
    rfl
  refine ⟨(exec_txStart s).trans (congrArg _ hstate), fun u hu => ?_, fun u hu => ?_⟩
  · rw [ht, drvAt_drive _ _ _ _ hu, decide_eq_true_iff]
  · rw [ht, drvAt_drive_before _ _ _ _ hu]

theorem lowBits_eq_ofNat (n : Nat) (v : BitVec 12) : lowBits n v = BitVec.ofNat 12 (v.toNat % 2 ^ n) := by
  apply BitVec.eq_of_toNat_eq
  simp [lowBits]

theorem txBits_shift (v : BitVec 12) (k : Nat) (s : State) : (txBits v k s).shift = s.shift := by
  induction k generalizing s with
  | zero => rfl
  | succ k ih => exact ih _

/-- A field is on the line in the time of its bits and its parity bit, and SHIFT holds its bits (R112). -/
theorem txField_eq {s : State} (h : s.cfg.wf = true) {n : Nat} (h1 : 1 ≤ n) (h2 : n ≤ 12) (v : BitVec 12) :
    txField n v s = { s with
      drv := false, drvLog := (txField n v s).drvLog, shift := lowBits n v, bitcnt := (txField n v s).bitcnt,
      now := s.now + (n + 1) * s.cfg.tBit } := by
  have hw := writes_txField n v s
  obtain ⟨hidx, hwfr⟩ := Prod.mk.inj (show ((txField n v s).idx, (txField n v s).wfr) = (s.idx, s.wfr) from
    hw .work (by decide))
  have hpar : (txField n v s).par = s.par := hw .par (by decide)
  have hseq : (txField n v s).seq = s.seq := hw .seq (by decide)
  have hdur : (txField n v s).dur = s.dur := hw .dur (by decide)
  have hdrv : (txField n v s).drv = false := rfl
  have hshift : (txField n v s).shift = lowBits n v := txBits_shift _ n _
  have hnow : (txField n v s).now = s.now + (n + 1) * s.cfg.tBit := by
    rw [(Emits.txField h1 h2 v h).time, waveTicks_field]
  have hupdate := Advances.eq_update (Advances.txField n v s)
  rwa [hidx, hwfr, hpar, hseq, hdur, hdrv, hshift, hnow] at hupdate

/-- Settles O17: the whole state is `txField_eq`, and the line is the wave that `Emits.txField` gives. -/
theorem transmittedFieldIsItsBitsAndParity : Obligations.TransmittedFieldIsItsBitsAndParity := by
  intro s n v h h1 h2
  have hline := Emits.txField h1 h2 v h
  refine ⟨_, exec_txField h1 h2 v s, ?_, hline.wave, hline.before⟩
  rw [← lowBits_eq_ofNat]
  exact congrArg (report .ok) (txField_eq h h1 h2 v)

/-! ## Received pulses (R113, R116) -/

/-- Settles O18: a legal pulse is read by `rxBit_pulse`; no pulse, one that does not end and one that is too long are
`rxBit_silent` and `rxBit_tooLong`. -/
theorem receivedBitIsTheClassOfItsPulse : Obligations.ReceivedBitIsTheClassOfItsPulse := by
  intro s h hd
  have ht := wf_timing h
  refine ⟨fun g d hg h1 h2 hp => ?_, fun hq => ⟨_, exec_rxBit s, ?_⟩, fun g hg hq hr => ⟨_, exec_rxBit s, ?_⟩,
    fun g d hg h1 h2 hp => ⟨_, exec_rxBit s, ?_⟩⟩
  · rw [exec_rxBit, rxBit_pulse h hd hg h1 h2 hp, ← bitVal_decide]
    rfl
  · rw [rxBit_silent hd hq]
    rfl
  · rw [rxBit_tooLong h hd hg (by omega) (Nat.le_refl _) hq hr fun hlt => absurd hlt (Nat.lt_irrefl _)]
    rfl
  · rw [rxBit_tooLong h hd hg h1 (Nat.le_of_lt h2) hp.1 hp.2.1 fun _ => hp.2.2]
    rfl

/-- With no pulse to come, a start bit ends in DESYNC (R116). -/
theorem rxStart_silent {s : State} (hd : s.drv = false) (hq : QuietFrom s.env s.now (s.now + s.cfg.rxTimeout)) :
    rxStart s = .err (raised .desync) { s with now := s.now + s.cfg.rxTimeout } := by
  rw [rxStart, waitFor_silent hd hq]
  rfl

/-- A pulse below the tolerance is START_SHORT (R116). -/
theorem rxStart_tooShort {s : State} {g d : Nat} (h : s.cfg.wf = true) (hd : s.drv = false)
    (hg : g < s.cfg.rxTimeout) (h1 : 1 ≤ d) (h2 : d < s.cfg.tStartMin) (hp : PulseAt s.env s.now g d) :
    rxStart s = .err (raised .startShort) { s with now := s.now + g + d, dur := d } := by
  have ht := wf_timing h
  have hc : classifyStart s.cfg d = .tooShort := if_pos h2
  have hm : (waitTicks d (waitTicks g s)).durOf d = d := Nat.mod_eq_of_lt (show d < 2 ^ s.cfg.wTimer by omega)
  have hw : waitFor .recessive (s.cfg.tStartMax + 1) (waitTicks g s) = (some d, waitTicks d (waitTicks g s)) :=
    waitFor_release hd (by omega) hp.2.1 hp.2.2
  rw [rxStart, waitFor_edge hd hg hp.1 (hp.2.1 _ (Nat.le_refl _) (by omega))]
  dsimp only [waitTicks_cfg]
  rw [hw]
  dsimp only [waitTicks_cfg]
  rw [hc, hm]
  rfl

/-- A pulse that is still driven past the tolerance is START_LONG (R116). -/
theorem rxStart_stuck {s : State} {g : Nat} (h : s.cfg.wf = true) (hd : s.drv = false) (hg : g < s.cfg.rxTimeout)
    (hq : QuietFrom s.env s.now (s.now + g))
    (hr : DrivenFrom s.env (s.now + g) (s.now + g + (s.cfg.tStartMax + 1))) :
    rxStart s = .err (raised .startLong)
      { s with now := s.now + g + (s.cfg.tStartMax + 1), dur := s.cfg.tStartMax + 1 } := by
  have ht := wf_timing h
  have hm : s.durOf (s.cfg.tStartMax + 1) = s.cfg.tStartMax + 1 := Nat.mod_eq_of_lt (by omega)
  have hw : waitFor .recessive (s.cfg.tStartMax + 1) (waitTicks g s) =
      (none, waitTicks (s.cfg.tStartMax + 1) (waitTicks g s)) := waitFor_stuck hr
  rw [rxStart, waitFor_edge hd hg hq (hr _ (Nat.le_refl _) (by omega))]
  dsimp only [waitTicks_cfg]
  rw [hw]
  exact congrArg (fun k => Res.err (raised .startLong)
    { s with now := s.now + g + (s.cfg.tStartMax + 1), dur := k }) hm

/-- Settles O20, case by case of what the line does. -/
theorem receivedStartBitIsWithinTolerance : Obligations.ReceivedStartBitIsWithinTolerance := by
  intro s h hd
  refine ⟨fun g d hg h1 h2 hp => ?_, fun g d hg h1 h2 hp => ⟨_, exec_rxStart s, ?_⟩,
    fun g hg hq hr => ⟨_, exec_rxStart s, ?_⟩, fun hq => ⟨_, exec_rxStart s, ?_⟩⟩
  · rw [exec_rxStart, rxStart_pulse h hd hg h1 h2 hp]
    rfl
  · rw [rxStart_tooShort h hd hg h1 h2 hp]
    rfl
  · rw [rxStart_stuck h hd hg hq hr]
    rfl
  · rw [rxStart_silent hd hq]
    rfl

/-! ## Acknowledgments (R117, R118) -/

/-- Settles O21: a slot that is released is `ackRead_eq`, one that stays driven is `ackRead_stuck`. -/
theorem ackReadMeasuresTheSlot : Obligations.AckReadMeasuresTheSlot := by
  intro s d h hd hdrive
  refine ⟨fun hlt hrel => ?_, fun hstuck => ?_⟩
  · rw [exec_ackRead, ackRead_eq h hd hlt hdrive hrel, ← bitVal_decide, Bool.decide_and]
    rfl
  · subst hstuck
    rw [exec_ackRead, ackRead_stuck h hdrive]
    rfl

/-- Settles O22: a slot with an edge is `ackSend_held` or `ackSend_stuck`, one without is `ackSend_silent`. -/
theorem ackSendStretchesTheSlot : Obligations.AckSendStretchesTheSlot := by
  intro s h hd
  refine ⟨fun g hg hq he n hn => ⟨fun e hl hr hf => ?_, fun hr => ⟨_, exec_ackSend s, ?_⟩⟩,
    fun hq => ⟨_, exec_ackSend s, ?_⟩⟩
  · rw [exec_ackSend, ackSend_held hd hg hn hl hq he hr hf]
    rfl
  · rw [ackSend_stuck hd hg hn hq he hr]
    rfl
  · rw [ackSend_silent hd hq]
    rfl

/-! ## Two blocks (R121) -/

/-- MY_ADDR plays no part in R8. -/
theorem wf_myAddr (c : Config) (a : Addr) : { c with myAddr := a }.wf = c.wf := rfl

/-- One pulse of d ticks from tick t on, heard on the line by a block that waits from tick r on, is a pulse as a receiver
meets it (R120). -/
theorem pulseAt_of_heard {env : List (Nat × Nat)} {log : List (Nat × Bool)} {r t d stop : Nat} (hr : r ≤ t)
    (hd : t + d < stop)
    (hear : ∀ u, r ≤ u → u < stop →
      envDrives env u = (decide (t ≤ u) && drvAt ((t + d, false) :: (t, true) :: log) u)) :
    PulseAt env r (t - r) d := by
  have hpulse {u : Nat} (hu : r ≤ u) (hstop : u < stop) :
      envDrives env u = (decide (t ≤ u) && decide (u < t + d)) := by
    rw [hear u hu hstop]
    by_cases htu : t ≤ u
    · rw [drvAt_drive _ _ _ _ htu]
    · simp [htu]
  rw [PulseAt, Nat.add_sub_of_le hr]
  refine ⟨fun u hu hut => ?_, fun u hu hud => ?_, ?_⟩
  · rw [hpulse hu (by omega), decide_eq_false (by omega), Bool.false_and]
  · rw [hpulse (by omega) (by omega), decide_eq_true hu, decide_eq_true hud, Bool.and_self]
  · rw [hpulse (by omega) hd, decide_eq_false (Nat.lt_irrefl _), Bool.and_false]

/-- The driven phase of a bit is one that a receiver reads as the bit (R8, R81). -/
theorem driven_class {c : Config} (h : c.wf = true) (v : Bool) :
    1 ≤ Config.driven c v ∧ Config.driven c v < c.tBit ∧ Config.driven c v ≤ c.tMaxBit ∧
      decide (Config.driven c v < c.tThreshold) = v := by
  have ht := wf_timing h
  cases v with
  | true =>
    rw [show Config.driven c true = c.t1Driven from rfl]
    exact ⟨by omega, by omega, by omega, decide_eq_true (by omega)⟩
  | false =>
    rw [show Config.driven c false = c.t0Driven from rfl]
    exact ⟨by omega, by omega, by omega, decide_eq_false (by omega)⟩

/-- Settles O23: each pulse that is sent is one that is received (`pulseAt_of_heard`), in the class of its symbol. -/
theorem pulsesRoundTripBetweenTwoBlocks : Obligations.PulsesRoundTripBetweenTwoBlocks := by
  intro s r h hcfg hd hnow hstart
  have ht := wf_timing h
  have hwf : r.cfg.wf = true := by rw [hcfg, wf_myAddr, h]
  have hgap : s.now - r.now < r.cfg.rxTimeout := by omega
  have hmax : r.cfg.tMaxBit = s.cfg.tMaxBit := by rw [hcfg]
  have hthreshold : r.cfg.tThreshold = s.cfg.tThreshold := by rw [hcfg]
  have hmin : r.cfg.tStartMin = s.cfg.tStartMin := by rw [hcfg]
  have hlong : r.cfg.tStartMax = s.cfg.tStartMax := by rw [hcfg]
  refine ⟨fun v t hexec hear => ?_, fun t hexec hear => ?_⟩
  · obtain ⟨hpos, hfloat, hfits, hclass⟩ := driven_class h v
    rw [exec_txBit, txBit_eq h, Host.Outcome.next.injEq] at hexec
    subst hexec
    have hpulse := pulseAt_of_heard hnow (show _ < s.now + s.cfg.tBit by omega) hear
    refine ⟨_, exec_rxBit r, ?_⟩
    rw [rxBit_pulse hwf hd hgap hpos (hmax ▸ hfits) hpulse, hthreshold, hclass]
    exact ⟨by cases v <;> rfl, rfl, rfl⟩
  · rw [exec_txStart, txStart_eq, Host.Outcome.next.injEq] at hexec
    subst hexec
    have hpulse := pulseAt_of_heard hnow (show _ < s.now + s.cfg.tStartDriven + s.cfg.tStartFloat by omega) hear
    refine ⟨_, exec_rxStart r, ?_⟩
    rw [rxStart_pulse hwf hd hgap (by omega) (by omega) hpulse]
    exact ⟨rfl, rfl⟩

end Sys2Proof.Machine
end

section
/-! SUPPORT. RX_FIELD: what a train of pulses puts into SHIFT and PAR bit by bit, and where a bit that cannot be read cuts
the field off (R24, R113, R114). -/

namespace Sys2Proof.Machine

/-! ## Bits shifted into a register -/

/-- The bits that pulses stand for, in the order received (R81). -/
def pulseBits (c : Config) (ps : List (Nat × Nat)) : List Bool := ps.map fun p => decide (p.2 < c.tThreshold)

/-- SHIFT after some bits have been shifted in (R114). -/
def shiftIn (v : BitVec 12) (bs : List Bool) : BitVec 12 := bs.foldl (fun v b => (v <<< 1) ||| bitVal b) v

theorem bitVal_toNat (b : Bool) : (bitVal b).toNat = b.toNat := by cases b <;> rfl

theorem getLsbD_shift_succ (v : BitVec 12) (b : Bool) {k : Nat} (hk : k + 1 < 12) :
    ((v <<< 1) ||| bitVal b).getLsbD (k + 1) = v.getLsbD k := by
  have hbit : (bitVal b).getLsbD (k + 1) = false := by cases b <;> simp [bitVal]
  rw [BitVec.getLsbD_or, hbit, Bool.or_false, BitVec.getLsbD_shiftLeft]
  simp [hk]

/-- A bit shifted in stands after the bits that SHIFT held. -/
theorem bitsMsb_shift (v : BitVec 12) (b : Bool) {n : Nat} (hn : n < 12) :
    bitsMsb (n + 1) ((v <<< 1) ||| bitVal b) = bitsMsb n v ++ [b] := by
  induction n with
  | zero => cases b <;> simp [bitsMsb, bitVal]
  | succ n ih => rw [bitsMsb, getLsbD_shift_succ v b hn, ih (by omega)]; rfl

theorem bitsMsb_shiftIn (v : BitVec 12) (bs : List Bool) {n : Nat} (hn : n + bs.length ≤ 12) :
    bitsMsb (n + bs.length) (shiftIn v bs) = bitsMsb n v ++ bs := by
  induction bs generalizing v n with
  | nil => exact (List.append_nil _).symm
  | cons b bs ih =>
    rw [List.length_cons] at hn ⊢
    have htail := ih ((v <<< 1) ||| bitVal b) (n := n + 1) (by omega)
    rw [bitsMsb_shift v b (by omega), List.append_assoc] at htail
    rwa [show n + (bs.length + 1) = n + 1 + bs.length by omega]

theorem shiftIn_lt (v : BitVec 12) (bs : List Bool) {n : Nat} (hv : v.toNat < 2 ^ n) :
    (shiftIn v bs).toNat < 2 ^ (n + bs.length) := by
  induction bs generalizing v n with
  | nil => exact hv
  | cons b bs ih =>
    have hshift : (v <<< 1).toNat < 2 ^ (n + 1) := by
      rw [BitVec.toNat_shiftLeft, Nat.shiftLeft_eq, Nat.pow_succ]
      exact Nat.lt_of_le_of_lt (Nat.mod_le _ _) (by omega)
    have hbit : (bitVal b).toNat < 2 ^ (n + 1) := by
      rw [bitVal_toNat, Nat.pow_succ]
      have := Bool.toNat_lt b
      have := Nat.two_pow_pos n
      omega
    have hstep : ((v <<< 1) ||| bitVal b).toNat < 2 ^ (n + 1) := by
      rw [BitVec.toNat_or]
      exact Nat.or_lt_two_pow hshift hbit
    rw [List.length_cons, show n + (bs.length + 1) = n + 1 + bs.length by omega]
    exact ih _ hstep

/-- PAR takes in the parity of a field bit by bit (R24, R84). -/
theorem foldl_accumulate_bitsMsb {w : Nat} (n : Nat) (v : BitVec w) (p : Bool) :
    (bitsMsb n v).foldl accumulate p = xor p (parity n v) := by
  induction n generalizing p with
  | zero => simp [bitsMsb, parity]
  | succ n ih => rw [bitsMsb, List.foldl_cons, ih, parity, accumulate, Bool.xor_assoc]

/-! ## Fields that are read, and fields that are cut off -/

/-- Pulses that bits can have are read one after another into SHIFT and PAR, and k bits are still to go (R114). -/
theorem rxBits_train {s : State} (h : s.cfg.wf = true) (hd : s.drv = false) (k : Nat) {ps : List (Nat × Nat)}
    (hp : PulseTrain s.env s.now ps) (hfit : ∀ p ∈ ps, p.1 < s.cfg.rxTimeout ∧ 1 ≤ p.2 ∧ p.2 ≤ s.cfg.tMaxBit) :
    ∃ bitcnt, rxBits (ps.length + k) s = rxBits k { s with
      now := s.now + trainTicks ps, dur := (ps.map Prod.snd).getLastD s.dur,
      par := (pulseBits s.cfg ps).foldl accumulate s.par, shift := shiftIn s.shift (pulseBits s.cfg ps),
      bitcnt := bitcnt } := by
  induction ps generalizing s with
  | nil => exact ⟨s.bitcnt, by rw [List.length_nil, Nat.zero_add]; rfl⟩
  | cons p ps ih =>
    obtain ⟨g, d⟩ := p
    obtain ⟨hpulse, htrain⟩ := hp
    obtain ⟨⟨hg, h1, h2⟩, hrest⟩ := List.forall_mem_cons.mp hfit
    obtain ⟨bitcnt, hbits⟩ := ih (s := { s with
      now := s.now + g + d, dur := d, par := accumulate s.par (decide (d < s.cfg.tThreshold)),
      shift := (s.shift <<< 1) ||| bitVal (decide (d < s.cfg.tThreshold)),
      bitcnt := BitVec.ofNat 4 (ps.length + k) }) h hd htrain hrest
    refine ⟨bitcnt, ?_⟩
    have hticks : s.now + trainTicks ((g, d) :: ps) = s.now + g + d + trainTicks ps := by simp [trainTicks, Nat.add_assoc]
    rw [List.length_cons, Nat.add_right_comm, rxBits, rxBit_pulse h hd hg h1 h2 hpulse, Res.andThen_ok, hbits, hticks,
      List.map_cons, List.getLastD_cons]
    rfl

theorem getLast?_duration {ps : List (Nat × Nat)} (h : ps ≠ []) (d : Nat) :
    ps.getLast?.map Prod.snd = some ((ps.map Prod.snd).getLastD d) := by
  cases ps with
  | nil => exact absurd rfl h
  | cons p ps =>
    rw [← List.getLast?_map, List.map_cons, List.getLast?_cons, List.getLastD_cons, List.getLastD_eq_getLast?]

/-- RX_FIELD on as many pulses as bits (R114). -/
theorem rxField_train {s : State} (h : s.cfg.wf = true) (hd : s.drv = false) {ps : List (Nat × Nat)}
    (hp : PulseTrain s.env s.now ps) (hfit : ∀ p ∈ ps, p.1 < s.cfg.rxTimeout ∧ 1 ≤ p.2 ∧ p.2 ≤ s.cfg.tMaxBit) :
    ∃ bitcnt, rxField ps.length s = .ok (shiftIn 0#12 (pulseBits s.cfg ps)) { s with
      now := s.now + trainTicks ps, dur := (ps.map Prod.snd).getLastD s.dur,
      par := (pulseBits s.cfg ps).foldl accumulate s.par, shift := shiftIn 0#12 (pulseBits s.cfg ps),
      bitcnt := bitcnt } := by
  obtain ⟨bitcnt, hbits⟩ :=
    rxBits_train (s := { s with shift := 0#12, bitcnt := BitVec.ofNat 4 ps.length }) h hd 0 hp hfit
  rw [Nat.add_zero] at hbits
  exact ⟨bitcnt, by rw [rxField, hbits]; rfl⟩

/-- Where RX_BIT fails, it fails at the same tick whatever the registers hold: it looks at the line and the clock only
(R113). -/
theorem rxBit_err_sameLine {s u v : State} {e : ResultReg} (hcfg : u.cfg = s.cfg) (hnow : u.now = s.now)
    (hline : ∀ t, u.line t = s.line t) (h : rxBit s = .err e v) :
    ∃ d, rxBit u = .err e { u with now := v.now, dur := d } := by
  have hcases := rxBit_cases s
  simp only [← hcfg, ← hnow, ← hline] at hcases
  rcases hcases with ⟨hquiet, hr⟩ | ⟨g, hg, hl, hquiet, ⟨hheld, hr⟩ | ⟨d, hd, hl', hheld, ⟨hclass, hr⟩ | ⟨b, -, hr⟩⟩⟩
  · obtain ⟨rfl, rfl⟩ := Res.err.inj (hr.symm.trans h)
    refine ⟨u.dur, ?_⟩
    rw [rxBit, waitFor_expired hquiet, waitTicks_now, ← hnow]
    rfl
  · obtain ⟨rfl, rfl⟩ := Res.err.inj (hr.symm.trans h)
    have hwait : waitFor .recessive u.cfg.rxTimeout (waitTicks g u) = _ := waitFor_expired hheld
    refine ⟨u.durOf u.cfg.rxTimeout, ?_⟩
    rw [rxBit, waitFor_found hg hl hquiet]
    dsimp only [waitTicks_cfg]
    rw [hwait, waitTicks_now, waitTicks_now, ← hnow]
    rfl
  · obtain ⟨rfl, rfl⟩ := Res.err.inj (hr.symm.trans h)
    have hwait : waitFor .recessive u.cfg.rxTimeout (waitTicks g u) = _ := waitFor_found hd hl' hheld
    refine ⟨u.durOf d, ?_⟩
    rw [rxBit, waitFor_found hg hl hquiet]
    dsimp only [waitTicks_cfg]
    rw [hwait]
    dsimp only [waitTicks_cfg]
    rw [hclass, show (waitTicks d (waitTicks g s)).now = u.now + g + d by simp [hnow]]
    rfl
  · exact absurd (hr.symm.trans h) nofun

/-- A stand-alone RX_BIT that reports DESYNC has failed as a step, at the tick at which it ends (R109). -/
theorem rxBit_err_of_desync {s e : State} (he : exec .rxBit s = .next e) (hresult : e.result = raised .desync) :
    ∃ v, rxBit s = .err (raised .desync) v ∧ v.now = e.now := by
  rw [exec_rxBit, Host.Outcome.next.injEq] at he
  cases hr : rxBit s with
  | ok b v =>
    rw [hr] at he
    subst he
    exact absurd (show ResultReg.okay = raised .desync from hresult) (by decide)
  | err c v =>
    rw [hr] at he
    subst he
    exact ⟨v, congrArg (Res.err · v) hresult, rfl⟩

/-- RX_FIELD where the bit after some pulses cannot be read (R114). -/
theorem rxField_cut {s v : State} {e : ResultReg} (h : s.cfg.wf = true) (hd : s.drv = false) {n : Nat}
    {ps : List (Nat × Nat)} (hp : PulseTrain s.env s.now ps)
    (hfit : ∀ p ∈ ps, p.1 < s.cfg.rxTimeout ∧ 1 ≤ p.2 ∧ p.2 ≤ s.cfg.tMaxBit) (hn : ps.length < n)
    (hcut : rxBit { s with now := s.now + trainTicks ps } = .err e v) :
    ∃ shift bitcnt dur, rxField n s = .err e { s with
      now := v.now, dur := dur, par := (pulseBits s.cfg ps).foldl accumulate s.par, shift := shift,
      bitcnt := bitcnt } := by
  obtain ⟨k, rfl⟩ : ∃ k, n = ps.length + (k + 1) := ⟨n - ps.length - 1, by omega⟩
  obtain ⟨bitcnt, hbits⟩ :=
    rxBits_train (s := { s with shift := 0#12, bitcnt := BitVec.ofNat 4 (ps.length + (k + 1)) }) h hd (k + 1) hp hfit
  obtain ⟨dur, herr⟩ := rxBit_err_sameLine (s := { s with now := s.now + trainTicks ps }) (u := { s with
    now := s.now + trainTicks ps, dur := (ps.map Prod.snd).getLastD s.dur,
    par := (pulseBits s.cfg ps).foldl accumulate s.par, shift := shiftIn 0#12 (pulseBits s.cfg ps),
    bitcnt := bitcnt }) rfl rfl (fun _ => rfl) hcut
  exact ⟨_, _, dur, by rw [rxField, hbits, rxBits, herr]; rfl⟩

/-! ## The obligation -/

/-- Settles O19: the bits go into SHIFT and PAR one by one (`rxField_train`), up to the first that cannot be read
(`rxField_cut`). -/
theorem receivedFieldIsItsBits : Obligations.ReceivedFieldIsItsBits := by
  intro s n ps h hd h1 h2 hp hfit
  refine ⟨fun hlen => ?_, fun hlen e he hresult => ?_⟩
  · have hwidth : (pulseBits s.cfg ps).length = n.toNat := (List.length_map _).trans hlen
    have hmsb : bitsMsb n.toNat (shiftIn 0#12 (pulseBits s.cfg ps)) = pulseBits s.cfg ps := by
      rw [← hwidth, ← Nat.zero_add (pulseBits s.cfg ps).length]
      exact bitsMsb_shiftIn 0#12 (pulseBits s.cfg ps) (by omega)
    have hlt : (shiftIn 0#12 (pulseBits s.cfg ps)).toNat < 2 ^ n.toNat := by
      rw [← hwidth, ← Nat.zero_add (pulseBits s.cfg ps).length]
      exact shiftIn_lt 0#12 _ (by decide)
    obtain ⟨bitcnt, hfield⟩ := rxField_train h hd hp hfit
    have hpar := foldl_accumulate_bitsMsb n.toNat (shiftIn 0#12 (pulseBits s.cfg ps)) s.par
    rw [hmsb] at hpar
    refine ⟨_, shiftIn 0#12 (pulseBits s.cfg ps), exec_rxField h1 h2 s, hlt, hmsb, ?_⟩
    rw [← hlen, hfield, hpar, hlen]
    exact ⟨rfl, getLast?_duration (List.ne_nil_of_length_pos (by omega)) s.dur⟩
  · obtain ⟨v, hcut, hnow⟩ := rxBit_err_of_desync he hresult
    obtain ⟨shift, bitcnt, dur, hfield⟩ := rxField_cut h hd hp hfit hlen hcut
    refine ⟨_, exec_rxField h1 h2 s, ?_⟩
    rw [hfield, hnow, pulseBits, List.foldl_map]
    exact ⟨rfl, rfl⟩

end Sys2Proof.Machine
end

section
/-! SUPPORT. The masked section, the bus-free check, and the ends of the frame operations (R140, R141, R145, R151): what
every SEND_FRAME and READ_FRAME keeps (`FrameOp`), and the three ways a SEND_FRAME of a legal length can end. -/

namespace Sys2Proof.Machine

/-! ## The bus-free check (R145) -/

theorem exec_busFree {s t : State} {free : Bool} (h : busFree s = (free, t)) :
    exec .busFree s = .next (if free then report .ok { t with val := bitVal free }
      else emit (raised .busy) (report .busy { t with val := bitVal free })) := by
  show Host.Outcome.next _ = _
  rw [h]

/-- The bus is free after `T_BIT` idle samples. -/
theorem busFree_quiet {s : State} (hd : s.drv = false) (hq : QuietFrom s.env s.now (s.now + s.cfg.tBit)) :
    busFree s = (true, waitTicks s.cfg.tBit s) := by
  rw [busFree, waitFor_silent hd hq]

/-- The bus is busy at the first driven sample. -/
theorem busFree_driven {s : State} (hd : s.drv = false) {e : Nat} (he : e < s.cfg.tBit)
    (hq : QuietFrom s.env s.now (s.now + e)) (hdrive : envDrives s.env (s.now + e) = true) :
    busFree s = (false, waitTicks e s) := by
  rw [busFree, waitFor_edge hd he hq hdrive]

/-- A stretch is quiet, or some tick in it is the first at which another agent drives. -/
theorem quietFrom_or_first (env : List (Nat × Nat)) (t n : Nat) :
    QuietFrom env t (t + n) ∨ ∃ e < n, QuietFrom env t (t + e) ∧ envDrives env (t + e) = true := by
  induction n with
  | zero => exact .inl fun _ hu hut => absurd hut (by omega)
  | succ n ih =>
    rcases ih with hq | ⟨e, he, hq, hdrive⟩
    · cases hlast : envDrives env (t + n) with
      | true => exact .inr ⟨n, by omega, hq, hlast⟩
      | false =>
        refine .inl fun u hu hun => ?_
        rcases Nat.lt_or_ge u (t + n) with h | h
        · exact hq u hu h
        · rwa [show u = t + n by omega]
    · exact .inr ⟨e, by omega, hq, hdrive⟩

/-! ## What every frame operation keeps (R151) -/

/-- A frame operation that ends in t: it ran masked from s, with RXF as it chose, and exited with a result. -/
def FrameOp (s t : State) : Prop :=
  ∃ r u, t = exitFrame s.masked r u ∧ (r = ResultReg.okay ∨ r.code ≠ .ok) ∧
    Advances { s with masked := true, rxf := u.rxf } u

/-- What RXF and SEQ hold is not a matter of the steps of a bus operation. -/
theorem Advances.retag {s t : State} (a : Advances s t) (f : RxFrame) (q : Seq) :
    Advances { s with rxf := f } { t with rxf := f, seq := q } :=
  { a with rxf := rfl }

theorem FrameOp.of_advances {s u : State} (a : Advances { s with masked := true, rxf := u.rxf } u) {r : ResultReg}
    (hr : r = ResultReg.okay ∨ r.code ≠ .ok) : FrameOp s (exitFrame s.masked r u) :=
  ⟨r, u, rfl, hr, a⟩

theorem FrameOp.frame {s t : State} (h : FrameOp s t) : FrameOpFrame s t := by
  obtain ⟨r, u, rfl, -, a⟩ := h
  have harrivals : (exitFrame s.masked r u).arrivals =
      s.arrivals.filter fun x => decide ((exitFrame s.masked r u).now ≤ x) := by
    rw [exitFrame_arrivals, exitFrame_now, a.arrivals]
    exact List.filter_congr fun x _ => by simp [← decide_not]
  apply State.ext
  case arrivals => exact harrivals
  all_goals
    simp only [exitFrame_cfg, exitFrame_txf, exitFrame_att, exitFrame_masked, exitFrame_seq, exitFrame_timerBase,
      exitFrame_act, exitFrame_val, exitFrame_slots, exitFrame_qw, exitFrame_qr, exitFrame_ovfCount, exitFrame_dropCount,
      exitFrame_env, exitFrame_inputs, a.cfg, a.txf, a.att, a.timerBase, a.act, a.val, a.slots, a.qw, a.qr, a.ovfCount,
      a.dropCount, a.env, a.inputs]

/-- The exit of a frame operation, whatever its result: the bus, MASKED, SEQ, the arrivals and the device (R151). -/
theorem FrameOp.restores {s t : State} (h : FrameOp s t) :
    t.drv = false ∧ t.masked = s.masked ∧ t.seq = .idle ∧
      ((t.result = ResultReg.okay ∧ t.diag = s.diag) ∨ (t.result.code ≠ .ok ∧ t.diag = s.diag ++ [t.result])) ∧
      t.arrivals = s.arrivals.filter (fun a => decide (t.now ≤ a)) ∧
      ∀ came, came = (s.tickLatch || s.arrivals.any (fun a => decide (a < t.now))) →
        t.tickLatch = (s.masked && came) ∧
        (came = true → s.masked = false → t.ds = (tickEffect s).ds ∧ t.respPending = (tickEffect s).respPending) ∧
        (came = false ∨ s.masked = true → t.ds = s.ds ∧ t.respPending = s.respPending) := by
  have harrivals : t.arrivals = _ := congrArg State.arrivals h.frame
  obtain ⟨r, u, rfl, hr, a⟩ := h
  obtain ⟨hds, hresp⟩ := exitFrame_device s.masked r u
  have htick : (tickEffect u).ds = (tickEffect s).ds ∧ (tickEffect u).respPending = (tickEffect s).respPending := by
    simp only [tickEffect, a.ds, a.respPending, a.cfg, and_self]
  refine ⟨exitFrame_drv _ _ _, exitFrame_masked _ _ _, exitFrame_seq _ _ _, ?_, harrivals, ?_⟩
  · rw [exitFrame_result, exitFrame_diag, a.diag]
    rcases hr with rfl | hr
    · exact .inl ⟨rfl, if_pos rfl⟩
    · exact .inr ⟨hr, if_neg hr⟩
  · rintro came rfl
    rw [a.tickLatch, a.arrivals, htick.1, a.ds] at hds
    rw [a.tickLatch, a.arrivals, htick.2, a.respPending] at hresp
    rw [exitFrame_now, exitFrame_tickLatch, a.tickLatch, a.arrivals, hds, hresp]
    refine ⟨rfl, fun hcame hmasked => ?_, fun hnot => ?_⟩
    · rw [hcame, hmasked]
      exact ⟨rfl, rfl⟩
    · have hno : (!s.masked && (s.tickLatch || s.arrivals.any fun a => decide (a < u.now))) = false := by
        rcases hnot with h | h <;> simp [h]
      rw [hno]
      exact ⟨rfl, rfl⟩

/-! ## SEND_FRAME, by how it ends (R146) -/

section

variable {s t u : State} (hlen : lengthLegal s.txf.length.toNat = true)
include hlen

/-- The bus-free check failed. -/
theorem sendFrame_busy (hbus : busFree { s with masked := true } = (false, t)) :
    sendFrame s = exitFrame s.masked (raised .busy) t := by
  rw [sendFrame, if_pos hlen]
  dsimp only
  rw [hbus]

/-- The frame was sent. -/
theorem sendFrame_sent (hbus : busFree { s with masked := true } = (true, t)) (hframe : txFrame t.txf t = .ok () u) :
    sendFrame s = exitFrame s.masked ResultReg.okay { u with seq := .finished opSendFrame } := by
  rw [sendFrame, if_pos hlen]
  dsimp only
  rw [hbus]
  dsimp only
  rw [hframe]

/-- A slot was not acknowledged. -/
theorem sendFrame_cut {e : ResultReg} (hbus : busFree { s with masked := true } = (true, t))
    (hframe : txFrame t.txf t = .err e u) : sendFrame s = exitFrame s.masked e u := by
  rw [sendFrame, if_pos hlen]
  dsimp only
  rw [hbus]
  dsimp only
  rw [hframe]

theorem sendFrame_frameOp : FrameOp s (sendFrame s) := by
  have ha := Advances.busFree { s with masked := true }
  cases hbus : busFree { s with masked := true } with
  | mk free t =>
    rw [hbus] at ha
    cases free with
    | false =>
      rw [sendFrame_busy hlen hbus]
      exact .of_advances (ha.rxf ▸ ha) (.inr (by decide))
    | true =>
      have hsent := Advances.txFrame t.txf t
      have hreports := txFrame_reports t.txf t
      cases hframe : txFrame t.txf t with
      | ok _ u =>
        rw [hframe] at hsent
        rw [sendFrame_sent hlen hbus hframe]
        exact .of_advances ((ha.trans hsent).retag _ _) (.inl rfl)
      | err e u =>
        rw [hframe] at hsent hreports
        rw [sendFrame_cut hlen hbus hframe]
        refine .of_advances ((ha.trans hsent).retag _ u.seq) (.inr fun he => hreports ?_)
        simp [he]

end

theorem sendFrame_illegal {s : State} (h : s.txf.length.toNat = 0 ∨ 32 < s.txf.length.toNat) :
    sendFrame s = { s with result := raised .badlen, diag := s.diag ++ [raised .badlen] } :=
  if_neg (by rw [lengthLegal_iff]; omega)

theorem exec_sendFrame (s : State) : exec .sendFrame s = .next (sendFrame s) := rfl

/-! ## READ_FRAME, by how it ends (R150) -/

/-- The state in which a read runs: masked, with RXF invalid. -/
def reading (s : State) : State := { s with masked := true, rxf.valid := false }

theorem readFrame_failed {s t : State} {e : ResultReg} (h : rxFrame (reading s) = .err e t) :
    readFrame s = exitFrame s.masked e t := by
  unfold reading at h
  unfold readFrame
  dsimp only
  rw [h]

theorem readFrame_read {s t : State} {len : Nat} (h : rxFrame (reading s) = .ok len t) :
    readFrame s = exitFrame s.masked ResultReg.okay
      { t with rxf := acceptFrame t.rxf t.wfr.frame len, seq := .finished opReadFrame } := by
  unfold reading at h
  unfold readFrame
  dsimp only
  rw [h]

theorem exec_readFrame (s : State) : exec .readFrame s = .next (readFrame s) := rfl

theorem readFrame_frameOp (s : State) : FrameOp s (readFrame s) := by
  have ha := Advances.rxFrame (reading s)
  have hreports := rxFrame_reports (reading s)
  cases hframe : rxFrame (reading s) with
  | ok len t =>
    rw [hframe] at ha
    rw [readFrame_read hframe]
    exact .of_advances (ha.retag _ _) (.inl rfl)
  | err e t =>
    rw [hframe] at ha hreports
    rw [readFrame_failed hframe]
    refine .of_advances (ha.retag _ t.seq) (.inr fun he => hreports ?_)
    simp [he]

/-! ## The obligations -/

/-- Settles O25: UNMASK is `restoreMask`, which serves a latched tick or none (`restoreMask_cases`). -/
theorem maskAndUnmaskSaveAndRestore : Obligations.MaskAndUnmaskSaveAndRestore := by
  intro s p
  have hunmask : exec (.unmask p) s = .next (report .ok (restoreMask p s)) := rfl
  refine ⟨?_, fun hp => ?_, fun hp hlatch => ⟨_, rfl, ?_⟩⟩
  · show Host.Outcome.next _ = _
    cases s.masked <;> rfl
  · rcases restoreMask_cases p s with ⟨rfl, hlatch, -⟩ | ⟨-, h⟩
    · exact absurd hp (by simp [hlatch])
    · rw [hunmask, h]
      rfl
  · rcases restoreMask_cases p s with ⟨-, -, h⟩ | ⟨hnot, -⟩
    · rw [hunmask, h]
    · exact absurd hnot (by simp [hp, hlatch])

/-- Settles O26: `busFree_quiet` and `busFree_driven`. -/
theorem busFreeNeedsOneIdleBitPeriod : Obligations.BusFreeNeedsOneIdleBitPeriod := by
  intro s hd
  refine ⟨fun hq => ?_, fun e he hq hdrive => ?_⟩
  · rw [exec_busFree (busFree_quiet hd hq)]
    rfl
  · rw [exec_busFree (busFree_driven hd he hq hdrive)]
    rfl

/-- Settles O28: an illegal length is refused first (`sendFrame_illegal`), and a driven sample ends the check
(`busFree_driven`) before anything is sent. -/
theorem sendFrameRefusesBadLengthAndBusyBus : Obligations.SendFrameRefusesBadLengthAndBusyBus := by
  intro s
  refine ⟨fun h => by rw [exec_sendFrame, sendFrame_illegal h], fun hmin hmax hd e he hq hdrive => ?_⟩
  have hlen := (lengthLegal_iff _).mpr ⟨hmin, hmax⟩
  have hbus := busFree_driven (s := { s with masked := true }) hd he hq hdrive
  have hop := sendFrame_frameOp hlen
  have hsend := sendFrame_busy hlen hbus
  refine ⟨_, exec_sendFrame s, hop.frame, ?_⟩
  rw [hsend, exitFrame_rxf, exitFrame_par, exitFrame_dur, exitFrame_result, exitFrame_diag, exitFrame_now,
    exitFrame_drvLog]
  exact ⟨rfl, rfl, rfl, rfl, rfl, rfl, rfl⟩

/-- Settles O36: a read exits with the error of its step, or with a frame whose length was checked (`rxFrame_length`). -/
theorem failedReadSurfacesNoFrame : Obligations.FailedReadSurfacesNoFrame := by
  intro s
  have hop := readFrame_frameOp s
  refine ⟨_, exec_readFrame s, hop.frame, ?_⟩
  obtain ⟨-, -, -, hresult, -, -⟩ := hop.restores
  have hkeeps := Advances.rxFrame (reading s)
  have hlength := rxFrame_length (reading s)
  have hreports := rxFrame_reports (reading s)
  refine ⟨fun hok => ?_, fun herr => ⟨?_, (hresult.resolve_left fun h => herr (by rw [h.1]; rfl)).2⟩⟩
  · obtain ⟨hokay, hdiag⟩ := hresult.resolve_right fun h => h.1 hok
    refine ⟨hokay, hdiag, ?_⟩
    cases hframe : rxFrame (reading s) with
    | ok len t =>
      rw [hframe] at hlength
      obtain ⟨hlegal, htaken⟩ := hlength
      rw [readFrame_read hframe, exitFrame_rxf]
      exact ⟨rfl, (lengthLegal_iff _).mp (htaken ▸ hlegal)⟩
    | err e t =>
      rw [hframe] at hreports
      rw [readFrame_failed hframe, exitFrame_result] at hok
      exact absurd (by simp [hok]) hreports
  · cases hframe : rxFrame (reading s) with
    | ok len t =>
      rw [readFrame_read hframe, exitFrame_result] at herr
      exact absurd rfl herr
    | err e t =>
      rw [hframe] at hkeeps
      rw [readFrame_failed hframe, exitFrame_rxf]
      exact hkeeps.rxf

/-- Settles O37: both frame operations end in the same exit (`FrameOp.restores`). -/
theorem frameOperationsRestoreBusAndMask : Obligations.FrameOperationsRestoreBusAndMask := by
  intro s
  refine ⟨fun i hi => ?_, fun h => ⟨_, exec_sendFrame s, ?_⟩⟩
  · have hop : ∃ t, exec i s = .next t ∧ FrameOp s t := by
      rcases hi with rfl | ⟨rfl, hlen⟩
      · exact ⟨_, exec_readFrame s, readFrame_frameOp s⟩
      · exact ⟨_, exec_sendFrame s, sendFrame_frameOp ((lengthLegal_iff _).mpr hlen)⟩
    obtain ⟨t, ht, hop⟩ := hop
    obtain ⟨hdrv, hmasked, hseq, hresult, harrivals, hticks⟩ := hop.restores
    refine ⟨t, ht, hdrv, hmasked, hseq, hresult, harrivals, fun came hcame => ?_⟩
    obtain ⟨hlatch, hserved, hkept⟩ := hticks came hcame
    exact ⟨hlatch, fun h h' => ⟨_, rfl, hserved h h'⟩, hkept⟩
  · rw [sendFrame_illegal h]
    exact ⟨rfl, rfl, rfl, rfl, rfl, rfl, rfl, rfl⟩

end Sys2Proof.Machine
end

section
/-! SUPPORT. A field between two blocks (R155), and the bus-free check inside a frame of another agent (R145 (d)). -/

namespace Sys2Proof.Machine

/-! ## The bits of a field as a receiver meets them (R120) -/

/-- The pulses of bits sent with nominal timing, to a receiver that has waited g ticks for the first of them. -/
def bitTrain (c : Config) : (g : Nat) → List Bool → List (Nat × Nat)
  | _, [] => []
  | g, b :: bs => (g, Config.driven c b) :: bitTrain c (c.tBit - Config.driven c b) bs

@[simp] theorem bitTrain_length (c : Config) (g : Nat) (bs : List Bool) : (bitTrain c g bs).length = bs.length := by
  induction bs generalizing g with
  | nil => rfl
  | cons b bs ih => rw [bitTrain, List.length_cons, ih, List.length_cons]

theorem symbolDriven_ofBit (c : Config) (b : Bool) : symbolDriven c (Symbol.ofBit b) = Config.driven c b := by
  cases b <;> rfl

/-- Each pulse is one that a bit can have. -/
theorem bitTrain_fits {c : Config} (h : c.wf = true) {g : Nat} (hg : g < c.rxTimeout) (bs : List Bool) :
    ∀ p ∈ bitTrain c g bs, p.1 < c.rxTimeout ∧ 1 ≤ p.2 ∧ p.2 ≤ c.tMaxBit := by
  have ht := wf_timing h
  induction bs generalizing g with
  | nil => exact nofun
  | cons b bs ih =>
    obtain ⟨hpos, -, hmax, -⟩ := driven_class h b
    exact List.forall_mem_cons.mpr ⟨⟨hg, hpos, hmax⟩, ih (by omega)⟩

/-- The pulses stand for the bits. -/
theorem pulseBits_bitTrain {c : Config} (h : c.wf = true) (g : Nat) (bs : List Bool) :
    pulseBits c (bitTrain c g bs) = bs := by
  induction bs generalizing g with
  | nil => rfl
  | cons b bs ih =>
    have hb : decide (Config.driven c b < c.tThreshold) = b := (driven_class h b).2.2.2
    rw [bitTrain, pulseBits, List.map_cons, hb]
    exact congrArg _ (ih _)

/-- The wave of bits, heard from tick r on, is their train. -/
theorem pulseTrain_of_wave {c : Config} (h : c.wf = true) {env : List (Nat × Nat)} {r t : Nat} (bs : List Bool)
    (hr : r ≤ t) (hear : ∀ u, r ≤ u → u < t + bs.length * c.tBit →
      envDrives env u = envDrives (waveOf c t (bs.map Symbol.ofBit)) u) :
    PulseTrain env r (bitTrain c (t - r) bs) := by
  induction bs generalizing r t with
  | nil => trivial
  | cons b bs ih =>
    obtain ⟨hpos, hfloat, -, -⟩ := driven_class h b
    rw [List.length_cons, Nat.add_mul, Nat.one_mul] at hear
    have hpulse {u : Nat} (hu : t ≤ u) (hend : u < t + (bs.length * c.tBit + c.tBit)) :
        envDrives env u = (decide (u < t + Config.driven c b) ||
          envDrives (waveOf c (t + c.tBit) (bs.map Symbol.ofBit)) u) := by
      rw [hear u (by omega) hend, List.map_cons, wave_cons _ _ _ _ hu, symbolDriven_ofBit, symbolTicks_ofBit]
    refine ⟨⟨fun u hu hut => ?_, fun u hu hud => ?_, ?_⟩, ?_⟩
    · rw [hear u hu (by omega), wave_before _ _ _ (by omega)]
    · rw [hpulse (by omega) (by omega), decide_eq_true (by omega), Bool.true_or]
    · rw [hpulse (by omega) (by omega), decide_eq_false (by omega), wave_before _ _ _ (by omega), Bool.false_or]
    · rw [Nat.add_sub_of_le hr, show c.tBit - Config.driven c b = t + c.tBit - (t + Config.driven c b) by omega]
      refine ih (by omega) fun u hu hend => ?_
      rw [hpulse (by omega) (by omega), decide_eq_false (by omega), Bool.false_or]

/-- MY_ADDR plays no part in the timing of symbols. -/
theorem waveOf_myAddr (c : Config) (a : Addr) (t : Nat) (syms : List Symbol) :
    waveOf { c with myAddr := a } t syms = waveOf c t syms := by
  induction syms generalizing t with
  | nil => rfl
  | cons x xs ih => cases x <;> exact congrArg _ (ih _)

/-- A field is determined by its bits. -/
theorem eq_of_bitsMsb {n : Nat} {v v' : BitVec 12} (hv : v.toNat < 2 ^ n) (hv' : v'.toNat < 2 ^ n)
    (h : bitsMsb n v = bitsMsb n v') : v = v' := by
  have hbit (m : Nat) (hb : bitsMsb m v = bitsMsb m v') (k : Nat) (hk : k < m) : v.getLsbD k = v'.getLsbD k := by
    induction m with
    | zero => omega
    | succ m ih =>
      obtain ⟨hlast, hrest⟩ := List.cons.inj hb
      rcases Nat.lt_succ_iff_lt_or_eq.mp hk with hk | rfl
      · exact ih hrest hk
      · exact hlast
  refine BitVec.eq_of_getLsbD_eq fun k _ => ?_
  rcases Nat.lt_or_ge k n with hk | hk
  · exact hbit n h k hk
  · have hpow : 2 ^ n ≤ 2 ^ k := Nat.pow_le_pow_right two_pos hk
    rw [BitVec.getLsbD, BitVec.getLsbD, Nat.testBit_lt_two_pow (by omega), Nat.testBit_lt_two_pow (by omega)]

/-- The bits of a field, shifted in one by one, give the field back. -/
theorem shiftIn_bitsMsb {n : Nat} (hn : n ≤ 12) {v : BitVec 12} (hv : v.toNat < 2 ^ n) :
    shiftIn 0#12 (bitsMsb n v) = v := by
  have hbits := bitsMsb_shiftIn 0#12 (bitsMsb n v) (n := 0) (by rw [bitsMsb_length]; omega)
  have hlt := shiftIn_lt 0#12 (bitsMsb n v) (n := 0) (by decide)
  rw [bitsMsb_length, Nat.zero_add] at hbits hlt
  exact eq_of_bitsMsb hlt hv hbits

/-- Settles O24: the receiver meets the train of the field's bits (`pulseTrain_of_wave`), whose parity is the bit that the
sender puts after them. -/
theorem senderAndReceiverAgreeOnParity : Obligations.SenderAndReceiverAgreeOnParity := by
  intro s r n v t h hcfg hd hpar hnow hstart h1 h2 hv hexec hear
  have ht := wf_timing h
  have hwf : r.cfg.wf = true := by rw [hcfg, wf_myAddr, h]
  have hdriven : Config.driven r.cfg = Config.driven s.cfg := by rw [hcfg]; rfl
  have hbit : r.cfg.tBit = s.cfg.tBit := by rw [hcfg]
  have hsent := Emits.txField (v := v) h1 h2 h
  rw [exec_txField h1 h2, Host.Outcome.next.injEq] at hexec
  subst hexec
  have htime : (txField n.toNat v s).now = s.now + (n.toNat * s.cfg.tBit + s.cfg.tBit) := by
    rw [hsent.time, waveTicks_field, Nat.add_mul, Nat.one_mul]
  have hwave (u : Nat) (hu : s.now ≤ u) : drvAt (txField n.toNat v s).drvLog u =
      (envDrives (waveOf s.cfg s.now ((bitsMsb n.toNat v).map Symbol.ofBit)) u ||
        envDrives (waveOf s.cfg (s.now + n.toNat * s.cfg.tBit) [Symbol.ofBit (parity n.toNat v)]) u) := by
    rw [hsent.wave u hu, fieldSymbols, waveOf_append, envDrives_append, waveTicks_bits, bitsMsb_length]
  have htrain : PulseTrain r.env r.now (bitTrain r.cfg (s.now - r.now) (bitsMsb n.toNat v)) := by
    refine pulseTrain_of_wave hwf _ hnow fun u hu hend => ?_
    rw [bitsMsb_length, hbit] at hend
    rw [hear u hu (show u < (txField n.toNat v s).now by omega), hcfg, waveOf_myAddr]
    by_cases hs : s.now ≤ u
    · rw [decide_eq_true hs, Bool.true_and]
      refine (hwave u hs).trans ?_
      rw [wave_before _ _ _ hend, Bool.or_false]
    · rw [decide_eq_false hs, Bool.false_and, wave_before _ _ _ (by omega)]
  obtain ⟨bitcnt, hfield⟩ := rxField_train hwf hd htrain (bitTrain_fits hwf (by omega) _)
  rw [bitTrain_length, bitsMsb_length, pulseBits_bitTrain hwf, shiftIn_bitsMsb h2 hv, foldl_accumulate_bitsMsb, hpar,
    Bool.false_xor] at hfield
  refine ⟨_, exec_rxField h1 h2 r, ?_⟩
  rw [hfield]
  refine ⟨rfl, fun u hu => ?_⟩
  show drvAt (txField n.toNat v s).drvLog u = true ↔ u < _ + Config.driven s.cfg (parity n.toNat v)
  rw [hwave u (by omega), wave_after h _ _ (by rw [waveTicks_bits, bitsMsb_length]; exact hu), Bool.false_or,
    wave_cons _ _ _ _ hu, symbolDriven_ofBit, waveOf, envDrives_nil, Bool.or_false, decide_eq_true_iff]

/-! ## The bus-free check inside a frame (R145 (d)) -/

/-- From any tick of some pulses up to the end of the last one, the next driven tick is less than a bit period away, where
each pulse floats for less than that. -/
theorem pulseWave_driven_soon {B : Nat} (hB : 0 < B) (ps : List (Nat × Nat)) (t0 now : Nat) {p : Nat × Nat}
    (hps : ∀ q ∈ ps, 1 ≤ q.1 ∧ q.2 < q.1 + B) (hlast : ps.getLast? = some p) (h0 : t0 ≤ now)
    (hnow : now < pulseStart t0 ps (ps.length - 1) + p.1) :
    ∃ u, now ≤ u ∧ u < now + B ∧ u < pulseStart t0 ps (ps.length - 1) + p.1 ∧ envDrives (pulseWave t0 ps) u = true := by
  induction ps generalizing t0 with
  | nil => simp at hlast
  | cons q qs ih =>
    obtain ⟨d, n⟩ := q
    obtain ⟨⟨hd, hn⟩, hqs⟩ := List.forall_mem_cons.mp hps
    by_cases hin : now < t0 + d
    · exact ⟨now, Nat.le_refl _, by omega, hnow, pulseWave_driven _ _ _ _ h0 hin⟩
    · cases qs with
      | nil =>
        obtain rfl : (d, n) = p := by simpa using hlast
        exact absurd (by simpa using hnow) hin
      | cons x xs =>
        have hend : pulseStart t0 ((d, n) :: x :: xs) ((d, n) :: x :: xs).length.pred =
            pulseStart (t0 + n) (x :: xs) ((x :: xs).length - 1) := pulseStart_succ _ _ _ _ _
        have hlast' : (x :: xs).getLast? = some p := by simpa using hlast
        rw [show ((d, n) :: x :: xs).length - 1 = ((d, n) :: x :: xs).length.pred from rfl, hend] at hnow ⊢
        by_cases hfloat : now < t0 + n
        · have hx := hqs x List.mem_cons_self
          have hp := hqs p (List.mem_of_getLast? hlast')
          have hstart : t0 + n ≤ pulseStart (t0 + n) (x :: xs) ((x :: xs).length - 1) := Nat.le_add_right _ _
          refine ⟨t0 + n, by omega, by omega, by omega, ?_⟩
          rw [pulseWave_rest _ _ _ _ (by omega)]
          exact pulseWave_driven _ _ _ _ (Nat.le_refl _) (by omega)
        · obtain ⟨u, hu, huB, huend, hdrive⟩ := ih (t0 + n) hqs hlast' (by omega) hnow
          exact ⟨u, hu, huB, huend, (pulseWave_rest _ _ _ _ (by omega)).trans hdrive⟩

/-- A sample that is driven in the `T_BIT` ticks of the check makes the bus busy. -/
theorem exec_busFree_driven {s : State} (hd : s.drv = false) {u : Nat} (hu : s.now ≤ u) (hend : u < s.now + s.cfg.tBit)
    (hdrive : envDrives s.env u = true) : ∃ t, exec .busFree s = .next t ∧ t.val = 0#12 ∧ t.result = raised .busy := by
  rcases quietFrom_or_first s.env s.now s.cfg.tBit with hq | ⟨e, he, hq, hfirst⟩
  · exact absurd hdrive (by rw [hq u hu hend]; decide)
  · exact ⟨_, exec_busFree (busFree_driven hd he hq hfirst), rfl, rfl⟩

/-- A nominal symbol floats for less than a bit period (R8 (b), (e)). -/
theorem symbol_floats {c : Config} (h : c.wf = true) (x : Symbol) :
    1 ≤ symbolDriven c x ∧ symbolTicks c x < symbolDriven c x + c.tBit := by
  have := wf_timing h
  cases x <;> simp only [symbolDriven, symbolTicks] <;> omega

/-- Settles O27: each pulse of the frame floats for less than a bit period, so that a driven tick of the frame lies among
the samples of the check (`pulseWave_driven_soon`). -/
theorem busFreeNeverPassesInsideAFrame : Obligations.BusFreeNeverPassesInsideAFrame := by
  intro s t0 f slot ps p h hd hslot hps hlast h0 hnow hear
  have ht := wf_timing h
  have hfloat : ∀ q ∈ ps, 1 ≤ q.1 ∧ q.2 < q.1 + s.cfg.tBit := by
    subst hps
    refine List.forall_mem_map.mpr fun x _ => ?_
    split
    next hx => exact hslot _ (List.contains_iff_mem.mp hx)
    · exact symbol_floats h x.1
  obtain ⟨u, hu, hsoon, hend, hdrive⟩ := pulseWave_driven_soon (by omega) ps t0 s.now hfloat hlast h0 hnow
  exact exec_busFree_driven hd hu hsoon ((hear u hu hsoon hend).trans hdrive)

end Sys2Proof.Machine
end

section
/-! SUPPORT. SEND_FRAME on a free bus (R146, R147): what it puts on the line when the frame is sent whole, broadcast or with
every slot acknowledged, and when a slot of the head or of the payload cuts it off. -/

namespace Sys2Proof.Machine

/-! ## The frame after the bus-free check -/

/-- The state in which a frame is sent: masked, after a bus-free check that has passed. -/
def onFreeBus (s : State) : State := waitTicks s.cfg.tBit { s with masked := true }

/-- From s to t the core has sent symbols on a free bus, and ended with a result (R146). -/
structure Sends (s t : State) (r : ResultReg) (xs : List (Symbol × Nat)) : Prop where
  frame : FrameOpFrame s t
  rxf : t.rxf = s.rxf
  par : t.par = s.par
  result : t.result = r
  diag : t.diag = if r.code = .ok then s.diag else s.diag ++ [r]
  now : t.now = s.now + s.cfg.tBit + heldTicks s.cfg xs
  wave : ∀ u, s.now ≤ u → drvAt t.drvLog u = envDrives (heldWave s.cfg (s.now + s.cfg.tBit) xs) u
  before : ∀ u, u < s.now → drvAt t.drvLog u = drvAt s.drvLog u

/-- In a good state the record of DRV says that nothing is driven from now on. -/
theorem Safe.drvAt_eq_false {s : State} (h : Safe s) {u : Nat} (hu : s.now ≤ u) : drvAt s.drvLog u = false := by
  rw [drvAt_stable s.drvLog h.2.logPast hu, h.2.logAgrees, h.2.drvReleased]

/-- The exit of a frame operation adds nothing to what its steps put on the line. -/
theorem sends_of_exit {s v : State} (h : Safe s) {xs : List (Symbol × Nat)} {r : ResultReg}
    (he : EmitsHeld (onFreeBus s) v xs) (hop : FrameOp s (exitFrame s.masked r v)) (hrxf : v.rxf = s.rxf)
    (hdiag : v.diag = s.diag) : Sends s (exitFrame s.masked r v) r xs where
  frame := hop.frame
  rxf := by rw [exitFrame_rxf, hrxf]
  par := by rw [exitFrame_par, he.par]; rfl
  result := exitFrame_result _ _ _
  diag := by rw [exitFrame_diag, hdiag]
  now := by rw [exitFrame_now, he.time]; rfl
  wave u hu := by
    rw [exitFrame_drvLog]
    by_cases hend : v.now ≤ u
    · rw [drvAt_cons_le _ _ _ hend, heldWave_after h.1 _ _ (he.time ▸ hend : s.now + s.cfg.tBit + _ ≤ u)]
    · rw [drvAt_cons_gt _ _ _ (Nat.lt_of_not_le hend)]
      by_cases hcheck : u < s.now + s.cfg.tBit
      · rw [he.before u hcheck, heldWave_before _ _ _ hcheck]
        exact h.drvAt_eq_false hu
      · exact he.wave u (Nat.le_of_not_lt hcheck)
  before u hu := by
    have htime : v.now = s.now + s.cfg.tBit + heldTicks s.cfg xs := he.time
    rw [exitFrame_drvLog, drvAt_cons_gt _ _ _ (by omega), he.before u (show u < s.now + s.cfg.tBit by omega)]
    rfl

section

variable {s u : State} (h : Safe s) (hlen : lengthLegal s.txf.length.toNat = true)
  (hq : QuietFrom s.env s.now (s.now + s.cfg.tBit)) {xs : List (Symbol × Nat)} (he : EmitsHeld (onFreeBus s) u xs)
include h hlen hq he

theorem sends_whole (hframe : txFrame s.txf (onFreeBus s) = .ok () u) :
    Sends s (sendFrame s) ResultReg.okay xs := by
  have hbus := busFree_quiet (s := { s with masked := true }) h.2.drvReleased hq
  have ha := Advances.txFrame s.txf (onFreeBus s)
  rw [hframe] at ha
  have hop := sendFrame_frameOp hlen
  have hsend := sendFrame_sent hlen hbus hframe
  rw [hsend] at hop ⊢
  exact sends_of_exit h (he.after rfl rfl rfl rfl rfl) hop ha.rxf ha.diag

theorem sends_cut {e : ResultReg} (hframe : txFrame s.txf (onFreeBus s) = .err e u) : Sends s (sendFrame s) e xs := by
  have hbus := busFree_quiet (s := { s with masked := true }) h.2.drvReleased hq
  have ha := Advances.txFrame s.txf (onFreeBus s)
  rw [hframe] at ha
  have hop := sendFrame_frameOp hlen
  have hsend := sendFrame_cut hlen hbus hframe
  rw [hsend] at hop ⊢
  exact sends_of_exit h he hop ha.rxf ha.diag

end

/-! ## Broadcast -/

/-- The symbols of a frame by its length, their ticks added up (R86). -/
theorem frame_ticks (c : Config) {f : Frame} (hlen : lengthLegal f.length.toNat = true) :
    waveTicks c (frameSymbols c f) = c.tStartDriven + c.tStartFloat +
      (if f.unicast then 44 + 10 * f.length.toNat else 41 + 9 * f.length.toNat) * c.tBit := by
  obtain ⟨hmin, hmax⟩ := (lengthLegal_iff _).mp hlen
  exact (frameHasItsSymbolsAndDuration c f hmin hmax).2.1

/-- A broadcast frame has no slot that could cut it off. -/
theorem txFrame_broadcast {s : State} (h : s.cfg.wf = true) {f : Frame} (hu : f.unicast = false) :
    ∃ t, txFrame f s = .ok () t ∧ Emits s t (frameSymbols s.cfg f) := by
  obtain ⟨a, ha, hhead⟩ := txHead_sent h false f.sender f.receiver f.control (f.length.setWidth 8) nofun
  obtain ⟨t, ht, hsent⟩ := txPayload_sent h false f.pay f.length.toNat 0 hhead nofun
  refine ⟨t, ?_, ?_⟩
  · rw [txFrame, hu, ha, Res.andThen_ok, ht]
  · rw [frameSymbols, hu, bytes_eq_map]
    simpa only [Nat.zero_add] using hsent

theorem sends_broadcast {s : State} (h : Safe s) (hlen : lengthLegal s.txf.length.toNat = true)
    (hu : s.txf.unicast = false) (hq : QuietFrom s.env s.now (s.now + s.cfg.tBit)) :
    Sends s (sendFrame s) ResultReg.okay ((frameSymbols s.cfg s.txf).map fun x => (x, 0)) := by
  obtain ⟨t, ht, he⟩ := txFrame_broadcast (s := onFreeBus s) h.1 hu
  exact sends_whole h hlen hq he.held ht

/-- Settles O29: the frame has no slot, so it is sent whole (`sends_broadcast`). -/
theorem broadcastFrameIsSentWhole : Obligations.BroadcastFrameIsSentWhole := by
  intro s h hmin hmax hu hq
  have hlen := (lengthLegal_iff _).mpr ⟨hmin, hmax⟩
  have hsent := sends_broadcast h hlen hu hq
  refine ⟨_, exec_sendFrame s, hsent.frame, hsent.rxf, hsent.par, hsent.result, hsent.diag, ?_, fun u hu => ?_,
    hsent.before⟩
  · have hticks := frame_ticks s.cfg hlen
    rw [hu, if_neg (by decide)] at hticks
    rw [hsent.now, heldTicks_plain]
    exact (congrArg _ hticks).trans (by omega)
  · rw [hsent.wave u hu, heldWave_plain]

/-! ## Unicast: the payload slot by slot -/

/-- The symbols of a unicast frame up to its data group i. -/
def symbolsUpTo (c : Config) (f : Frame) (i : Nat) : List Symbol :=
  headSymbols c true f.sender f.receiver f.control (f.length.setWidth 8) ++
    ((List.range i).map f.pay.read).flatMap (groupSymbols true)

theorem frameSymbols_eq_upTo (c : Config) {f : Frame} (hu : f.unicast = true) :
    frameSymbols c f = symbolsUpTo c f f.length.toNat := by
  rw [frameSymbols, hu, bytes_eq_map, symbolsUpTo]

/-- The symbols of a unicast frame up to the slot of its data group i. -/
def symbolsToSlot (c : Config) (f : Frame) (i : Nat) : List Symbol :=
  symbolsUpTo c f i ++ fieldSymbols 8 (f.pay.read i)

theorem symbolsUpTo_succ (c : Config) (f : Frame) (i : Nat) :
    symbolsUpTo c f (i + 1) = symbolsToSlot c f i ++ [.one] := by
  simp [symbolsUpTo, symbolsToSlot, List.range_succ, groupSymbols, slotSymbols]

theorem symbolsUpTo_length (c : Config) (f : Frame) (i : Nat) : (symbolsUpTo c f i).length = 45 + 10 * i := by
  rw [symbolsUpTo, List.length_append, headSymbols_length, groups_length]
  simp

/-- The symbols up to a slot of the payload end before it (R83). -/
theorem symbolsToSlot_ends (c : Config) (f : Frame) (i : Nat) :
    EndsBeforeSlot c (54 + 10 * i) (symbolsToSlot c f i) := by
  refine ⟨by rw [symbolsToSlot, List.length_append, symbolsUpTo_length, fieldSymbols_length]; omega, ?_⟩
  rw [symbolsToSlot, waveTicks_append, symbolsUpTo, waveTicks_append, headSymbols_ticks, groups_ticks, waveTicks_field]
  simp only [if_true, List.length_map, List.length_range]
  rw [show 54 + 10 * i - 1 = 44 + 10 * i + (8 + 1) by omega, Nat.add_mul, Nat.add_mul, Nat.add_mul 44]
  omega

theorem symbolsUpTo_prefix (c : Config) (f : Frame) {i j : Nat} (h : i ≤ j) :
    symbolsUpTo c f i <+: symbolsUpTo c f j := by
  induction h with
  | refl => exact List.prefix_rfl
  | step _ ih =>
    rw [symbolsUpTo_succ, symbolsToSlot, List.append_assoc]
    exact ih.trans (List.prefix_append _ _)

section

variable {s0 : State} {late : Nat → Nat} (h : s0.cfg.wf = true) (f : Frame)
include h

/-- A byte of the payload up to its slot, after what has been sent, where `late` says that its bits are not held up. -/
theorem payloadByte_held {s : State} {i : Nat} (he : EmitsHeld s0 s (held late (symbolsUpTo s0.cfg f i)))
    (hlate : ∀ j, 45 + 10 * i ≤ j → j < 54 + 10 * i → late j = 0) :
    EmitsHeld s0 (txField 8 ((f.pay.read i).setWidth 12) (sendAt .data { s with idx := BitVec.ofNat 6 i }))
      (held late (symbolsToSlot s0.cfg f i)) := by
  have hlength := symbolsUpTo_length s0.cfg f i
  have hfield := field_next_held h (he.after (v := { s with idx := BitVec.ofNat 6 i }) rfl rfl rfl rfl rfl) (n := 8)
    (by decide) (by decide) ((f.pay.read i).setWidth 12) .data fun j hj hj' => hlate j (by omega) (by omega)
  rwa [fieldSymbols_setWidth 8 _ 12 (by decide)] at hfield

/-- The next m data groups are sent, when their slots are acknowledged. -/
theorem txPayload_acked {s : State} (m k i : Nat) (he : EmitsHeld s0 s (held late (symbolsUpTo s0.cfg f i)))
    (hacked : ∀ j, j < i + m → i ≤ j → SlotAcked s0 late (54 + 10 * j))
    (hlate : ∀ j, 45 + 10 * i ≤ j → (∀ q, j ≠ 54 + 10 * q) → late j = 0) :
    ∃ t, txPayload true f.pay (m + k) i s = txPayload true f.pay k (i + m) t ∧
      EmitsHeld s0 t (held late (symbolsUpTo s0.cfg f (i + m))) := by
  induction m generalizing s i with
  | zero => exact ⟨s, by rw [Nat.zero_add]; rfl, he⟩
  | succ m ih =>
    have hfield := payloadByte_held h f he fun j hj hj' => hlate j hj fun q hq => by omega
    have hends := symbolsToSlot_ends s0.cfg f i
    obtain ⟨d, hd, hk⟩ := hacked i (by omega) (Nat.le_refl _)
    rw [← hends.heldTime] at hd
    rw [← hends.1] at hk
    obtain ⟨t, ht, hsent⟩ := slot_next_held h hfield .dataAck (BitVec.ofNat 6 i) hd hk
    rw [← symbolsUpTo_succ] at hsent
    obtain ⟨v, hv, hrest⟩ := ih (i + 1) hsent (fun j hj hj' => hacked j (by omega) (by omega))
      fun j hj hq => hlate j (by omega) hq
    refine ⟨v, ?_, by rwa [show i + (m + 1) = i + 1 + m by omega]⟩
    rw [show m + 1 + k = m + k + 1 by omega, txPayload, txData, ht, Res.andThen_ok, hv,
      show i + (m + 1) = i + 1 + m by omega]

/-- A slot of the payload that is not acknowledged ends the frame with NAK at its index (R146, R235). -/
theorem txPayload_unacked {s : State} {k i d : Nat} (he : EmitsHeld s0 s (held late (symbolsUpTo s0.cfg f i)))
    (hlate : ∀ j, 45 + 10 * i ≤ j → j < 54 + 10 * i → late j = 0)
    (hd : UnackedFor s0.cfg s0.env (heldTime s0.cfg late s0.now (54 + 10 * i)) d) :
    ∃ t, txPayload true f.pay (k + 1) i s = .err { code := .nak, field := .dataAck, index := BitVec.ofNat 6 i } t ∧
      EmitsHeld s0 t (held late (symbolsToSlot s0.cfg f i) ++ [(.one, d - s0.cfg.tBit)]) := by
  have hends := symbolsToSlot_ends s0.cfg f i
  rw [← hends.heldTime] at hd
  obtain ⟨t, ht, hsent⟩ := slot_next_unacked h (payloadByte_held h f he hlate) .dataAck (BitVec.ofNat 6 i) hd
  exact ⟨t, by rw [txPayload, txData, ht, Res.andThen_err], hsent⟩

end

/-! ## Unicast: the head, and the whole frame -/

/-- The slots of a frame, by number (R83). -/
theorem mem_ackSlots {len : Nat} {p : Place} :
    p ∈ ackSlots len ↔ p ∈ headAckSlots ∨ ∃ i < len, p = (54 + 10 * i, .dataAck, BitVec.ofNat 6 i) := by
  simp [ackSlots, dataPlaces, eq_comm]

/-- The delays of the head alone. -/
def headLate (late : Nat → Nat) (j : Nat) : Nat := if j < 45 then late j else 0

theorem headLate_of_lt (late : Nat → Nat) {j : Nat} (hj : j < 45) : headLate late j = late j := if_pos hj

/-- Only the three slots of the head hold it up. -/
theorem headLate_eq_zero {late : Nat → Nat}
    (h : ∀ j, j ≠ 28 → j ≠ 34 → j ≠ 44 → (∀ q, j ≠ 54 + 10 * q) → late j = 0) (j : Nat) (h28 : j ≠ 28) (h34 : j ≠ 34)
    (h44 : j ≠ 44) : headLate late j = 0 := by
  rw [headLate]
  split
  · exact h j h28 h34 h44 fun q hq => by omega
  · rfl

theorem headLate_heldTime (c : Config) (late : Nat → Nat) (t0 : Nat) {k : Nat} (hk : k ≤ 45) :
    heldTime c (headLate late) t0 k = heldTime c late t0 k := by
  rw [heldTime, heldTime, List.map_congr_left fun j hj => headLate_of_lt late (by have := List.mem_range.mp hj; omega)]

theorem headLate_held (late : Nat → Nat) {syms : List Symbol} (h : syms.length ≤ 45) :
    held (headLate late) syms = held late syms := by
  refine List.map_congr_left fun p hp => ?_
  have := List.snd_lt_of_mem_zipIdx hp
  rw [headLate_of_lt late (by omega)]

/-- Slots outside the places of a frame hold up nothing. -/
theorem SlotsHeld.late_eq_zero {c : Config} {env : List (Nat × Nat)} {t0 len : Nat} {pre : List Place}
    {late : Nat → Nat} (hs : SlotsHeld c env t0 pre late) (hpre : ∀ p ∈ pre, p ∈ ackSlots len) {j : Nat}
    (h28 : j ≠ 28) (h34 : j ≠ 34) (h44 : j ≠ 44) (hdata : ∀ q, j ≠ 54 + 10 * q) : late j = 0 := by
  refine hs.2 j fun p hp hj => ?_
  have hhead : ∀ q ∈ headAckSlots, q.1 = 28 ∨ q.1 = 34 ∨ q.1 = 44 := by decide
  rcases mem_ackSlots.mp (hpre p hp) with hp | ⟨q, -, rfl⟩
  · have := hhead p hp
    omega
  · exact hdata q hj.symm

/-- A unicast frame whose head and first m data groups are acknowledged. -/
theorem txFrame_acked {s : State} (h : s.cfg.wf = true) {f : Frame} (hu : f.unicast = true) {late : Nat → Nat}
    {m k : Nat} (hm : m + k = f.length.toNat)
    (hs : SlotsHeld s.cfg s.env s.now (ackSlots m) late) :
    ∃ t, txFrame f s = txPayload true f.pay k m t ∧ EmitsHeld s t (held late (symbolsUpTo s.cfg f m)) := by
  have hzero {j : Nat} := hs.late_eq_zero (fun _ hp => hp) (j := j)
  have hheadSlot {k : Nat} {p : FieldPos} (hp : (k, p, 0#6) ∈ headAckSlots) (hk : k < 45) :
      SlotAcked s (headLate late) k := by
    obtain ⟨d, hd, hlate⟩ := hs.1 (k, p, 0#6) (mem_ackSlots.mpr (.inl hp))
    exact ⟨d, by rwa [headLate_heldTime _ _ _ (by omega)], (headLate_of_lt late hk).trans hlate⟩
  obtain ⟨a, ha, hhead⟩ := txHead_acked h (late := headLate late)
    (headLate_eq_zero fun _ h1 h2 h3 h4 => hzero h1 h2 h3 h4) f.sender f.receiver f.control
    (f.length.setWidth 8) (hheadSlot (p := .addrAck) (by decide) (by decide))
    (hheadSlot (p := .controlAck) (by decide) (by decide)) (hheadSlot (p := .lengthAck) (by decide) (by decide))
  rw [headLate_held late (by rw [headSymbols_length]; exact Nat.le_refl _)] at hhead
  have hstart : EmitsHeld s a (held late (symbolsUpTo s.cfg f 0)) := by simpa [symbolsUpTo] using hhead
  obtain ⟨t, ht, hsent⟩ := txPayload_acked h f m k 0 hstart
    (fun j hj _ => hs.1 (_, _, _) (mem_ackSlots.mpr (.inr ⟨j, by omega, rfl⟩)))
    fun j hj hq => hzero (by omega) (by omega) (by omega) hq
  rw [Nat.zero_add] at ht hsent
  exact ⟨t, by rw [txFrame, hu, ha, Res.andThen_ok, ← hm, ht], hsent⟩

/-- The delays of a frame are those of its slots. -/
theorem sum_late_slots {late : Nat → Nat} (len : Nat)
    (h : ∀ j, j ≠ 28 → j ≠ 34 → j ≠ 44 → (∀ q, j ≠ 54 + 10 * q) → late j = 0) :
    ((List.range (45 + 10 * len)).map late).sum = ((ackSlots len).map fun p => late p.1).sum := by
  induction len with
  | zero =>
    have hhead := sum_late_head (headLate_eq_zero h)
    rw [List.map_congr_left fun j hj => headLate_of_lt late (List.mem_range.mp hj)] at hhead
    simpa [ackSlots, dataPlaces, headAckSlots, headLate] using hhead
  | succ len ih =>
    have hbits : ((List.range 9).map fun i => late (45 + 10 * len + i)).sum = 0 :=
      List.sum_eq_zero fun x hx => by
        obtain ⟨i, hi, rfl⟩ := List.mem_map.mp hx
        have := List.mem_range.mp hi
        exact h _ (by omega) (by omega) (by omega) fun q hq => by omega
    have hgroup : ((List.range (45 + 10 * (len + 1))).map late).sum =
        ((List.range (45 + 10 * len)).map late).sum + late (54 + 10 * len) := by
      rw [show 45 + 10 * (len + 1) = 45 + 10 * len + 9 + 1 by omega, List.range_succ, List.range_add]
      simp only [List.map_append, List.sum_append, List.map_map, Function.comp_def, hbits]
      simp [show 45 + 10 * len + 9 = 54 + 10 * len by omega]
    have hslots : ackSlots (len + 1) = ackSlots len ++ [(54 + 10 * len, .dataAck, BitVec.ofNat 6 len)] := by
      simp [ackSlots, dataPlaces, List.range_succ]
    rw [hgroup, ih, hslots, List.map_append, List.sum_append]
    simp

theorem sends_acked {s : State} (h : Safe s) (hlen : lengthLegal s.txf.length.toNat = true)
    (hu : s.txf.unicast = true) (hq : QuietFrom s.env s.now (s.now + s.cfg.tBit)) {late : Nat → Nat}
    (hs : SlotsHeld s.cfg s.env (s.now + s.cfg.tBit) (ackSlots s.txf.length.toNat) late) :
    Sends s (sendFrame s) ResultReg.okay (held late (frameSymbols s.cfg s.txf)) := by
  obtain ⟨t, ht, he⟩ := txFrame_acked (s := onFreeBus s) (f := s.txf) h.1 hu (k := 0) rfl hs
  rw [frameSymbols_eq_upTo s.cfg hu]
  exact sends_whole h hlen hq he ht

/-- Settles O30: every slot is acknowledged, so the frame is sent whole (`sends_acked`), and the delays are those of the
slots (`sum_late_slots`). -/
theorem acknowledgedUnicastFrameIsSentWhole : Obligations.AcknowledgedUnicastFrameIsSentWhole := by
  intro s late h hmin hmax hu hq hs
  have hlen := (lengthLegal_iff _).mpr ⟨hmin, hmax⟩
  have hsent := sends_acked h hlen hu hq hs
  refine ⟨_, exec_sendFrame s, hsent.frame, hsent.rxf, hsent.par, hsent.result, hsent.diag, ?_, hsent.wave,
    hsent.before⟩
  have hticks := frame_ticks s.cfg hlen
  have hsum := sum_late_slots s.txf.length.toNat fun j h1 h2 h3 h4 =>
    hs.late_eq_zero (fun _ hp => hp) h1 h2 h3 h4
  rw [hu, if_pos rfl] at hticks
  rw [hsent.now, heldTicks_held, hticks, frameSymbols_eq_upTo s.cfg hu, symbolsUpTo_length, hsum]
  omega

/-- The slots of a payload, each with the slots before it. -/
theorem dataPlaces_split {first stride len : Nat} {pos : FieldPos} {pre post : List Place} {p : Place}
    (h : dataPlaces first stride pos len = pre ++ p :: post) :
    ∃ m < len, pre = dataPlaces first stride pos m ∧ p = (first + stride * m, pos, BitVec.ofNat 6 m) := by
  obtain ⟨before, rest, hrange, rfl, hrest⟩ := List.map_eq_append_iff.mp h
  obtain ⟨x, after, rfl, rfl, -⟩ := List.map_eq_cons_iff.mp hrest
  rw [List.range_eq_range', List.range'_eq_append_iff] at hrange
  obtain ⟨m, hm, rfl, hafter⟩ := hrange
  obtain ⟨rfl, hlt, -⟩ := List.range'_eq_cons_iff.mp hafter.symm
  exact ⟨m, by omega, by rw [dataPlaces, List.range_eq_range'], by simp⟩

/-- The slots of a frame, each with the slots before it: a slot of the head, or of a data group. -/
theorem ackSlots_split {len : Nat} {pre post : List Place} {p : Place} (h : ackSlots len = pre ++ p :: post) :
    (∃ post', headAckSlots = pre ++ p :: post') ∨
      ∃ m < len, pre = ackSlots m ∧ p = (54 + 10 * m, .dataAck, BitVec.ofNat 6 m) := by
  rcases List.append_eq_append_iff.mp h with ⟨data, rfl, hdata⟩ | ⟨head, hhead, hdata⟩
  · obtain ⟨m, hm, rfl, hp⟩ := dataPlaces_split hdata
    exact .inr ⟨m, hm, rfl, hp⟩
  · cases head with
    | nil =>
      obtain ⟨m, hm, hpre, hp⟩ := dataPlaces_split (pre := []) hdata.symm
      exact .inr ⟨m, hm, by simp [ackSlots, ← hpre, hhead], hp⟩
    | cons q head =>
      obtain ⟨rfl, -⟩ := List.cons.inj hdata
      exact .inl ⟨head, hhead⟩

/-- A frame that a slot cuts off, as SEND_FRAME ends it: the symbols up to the slot are on the line. -/
theorem sends_to_slot {s t : State} (h : Safe s) (hlen : lengthLegal s.txf.length.toNat = true)
    (hq : QuietFrom s.env s.now (s.now + s.cfg.tBit)) {e : ResultReg} {late : Nat → Nat} {k d : Nat}
    {syms : List Symbol} (hframe : txFrame s.txf (onFreeBus s) = .err e t)
    (he : EmitsHeld (onFreeBus s) t (held late syms ++ [(.one, d - s.cfg.tBit)])) (hends : EndsBeforeSlot s.cfg k syms)
    (hprefix : syms ++ [Symbol.one] <+: frameSymbols s.cfg s.txf) (hk : late k = 0) :
    Sends s (sendFrame s) e (held late syms ++ [(.one, d - s.cfg.tBit)]) ∧
      (sendFrame s).now = heldTime s.cfg late (s.now + s.cfg.tBit) k + max d s.cfg.tBit ∧
      ∀ u, s.now ≤ u → drvAt (sendFrame s).drvLog u = envDrives
        (heldWave s.cfg (s.now + s.cfg.tBit) (held late ((frameSymbols s.cfg s.txf).take (k + 1)))) u := by
  have hsent := sends_cut h hlen hq he hframe
  refine ⟨hsent, ?_, fun u hu => ?_⟩
  · rw [hsent.now, heldTicks_slot, ← Nat.add_assoc, hends.heldTime]
  · rw [hsent.wave u hu, hends.take hprefix, held_append_one, hends.1, hk, heldWave_last]

/-- The first slot that is not acknowledged ends the frame there (R146, R147). -/
theorem txFrame_unacked {s : State} (h : s.cfg.wf = true) {g : Frame} (hu : g.unicast = true) {late : Nat → Nat}
    {pre post : List Place} {k d : Nat} {f : FieldPos} {i : BitVec 6}
    (hsplit : ackSlots g.length.toNat = pre ++ (k, f, i) :: post) (hs : SlotsHeld s.cfg s.env s.now pre late)
    (hd : UnackedFor s.cfg s.env (heldTime s.cfg late s.now k) d) :
    late k = 0 ∧ ∃ t syms, txFrame g s = .err { code := .nak, field := f, index := i } t ∧
      EmitsHeld s t (held late syms ++ [(.one, d - s.cfg.tBit)]) ∧ EndsBeforeSlot s.cfg k syms ∧
      syms ++ [Symbol.one] <+: frameSymbols s.cfg g := by
  rcases ackSlots_split hsplit with ⟨post', hhead⟩ | ⟨m, hm, rfl, hslot⟩
  · obtain ⟨rfl, hk, syms, hprefix, hends, hreach⟩ :=
      head_reaches_slot h g.sender g.receiver g.control (g.length.setWidth 8) hhead hs
    obtain ⟨t, ht, he, -⟩ := hreach.unacked h hends hd
    refine ⟨hk, t, syms, by rw [txFrame, hu, ht, Res.andThen_err], he, hends, hprefix.trans ?_⟩
    rw [frameSymbols, hu]
    exact List.prefix_append _ _
  · obtain ⟨rfl, rfl, rfl⟩ : k = _ ∧ f = _ ∧ i = _ := by simpa using hslot
    obtain ⟨a, ha, hsent⟩ := txFrame_acked h hu (k := g.length.toNat - m) (by omega) hs
    have hlate {j : Nat} := hs.late_eq_zero (fun _ hp => hp) (j := j)
    obtain ⟨t, ht, he⟩ := txPayload_unacked (k := g.length.toNat - m - 1) h g hsent
      (fun j hj hj' => hlate (by omega) (by omega) (by omega) fun q hq => by omega) hd
    rw [show g.length.toNat - m - 1 + 1 = g.length.toNat - m by omega] at ht
    refine ⟨hs.2 _ fun p hp hj => ?_, t, _, ha.trans ht, he, symbolsToSlot_ends s.cfg g m, ?_⟩
    · rcases mem_ackSlots.mp hp with hp | ⟨q, hq, rfl⟩
      · have hhead : ∀ q ∈ headAckSlots, q.1 ≤ 44 := by decide
        have := hhead p hp
        omega
      · exact absurd hj (by simp; omega)
    · rw [← symbolsUpTo_succ, frameSymbols_eq_upTo s.cfg hu]
      exact symbolsUpTo_prefix s.cfg g hm

/-- Settles O31: the frame ends at its first slot without an acknowledgment (`txFrame_unacked`), with the symbols up to it
on the line (`sends_to_slot`). -/
theorem unicastSendStopsAtTheFirstMissingAck : Obligations.UnicastSendStopsAtTheFirstMissingAck := by
  intro s late pre post k d f i h hmin hmax hu hq hsplit hs hd
  have hlen := (lengthLegal_iff _).mpr ⟨hmin, hmax⟩
  obtain ⟨hk, t, syms, ht, he, hends, hprefix⟩ := txFrame_unacked (s := onFreeBus s) h.1 hu hsplit hs hd
  obtain ⟨hsent, hnow, hwave⟩ := sends_to_slot h hlen hq ht he hends hprefix hk
  exact ⟨_, exec_sendFrame s, hsent.frame, hsent.rxf, hsent.par, hsent.result,
    hsent.diag.trans (by rw [hsent.result]; rfl), hnow, hwave, hsent.before⟩

end Sys2Proof.Machine
end

section
/-! SUPPORT. The layout of a frame as a receiver meets it (R82, R83): where its fields and its ack slots stand among its
symbols and among the positions that errors carry. -/

namespace Sys2Proof.Machine

/-! ## A part of a list -/

/-- The list has a part that begins at index b. -/
def Sits {α : Type} (l part : List α) (b : Nat) : Prop := ∃ pre post, l = pre ++ (part ++ post) ∧ pre.length = b

theorem Sits.getElem? {α : Type} {l part : List α} {b m : Nat} (h : Sits l part b) (hm : m < part.length) :
    l[b + m]? = part[m]? := by
  obtain ⟨pre, post, rfl, rfl⟩ := h
  rw [List.getElem?_append_right (Nat.le_add_right _ _), Nat.add_sub_cancel_left, List.getElem?_append_left hm]

theorem Sits.last {α : Type} (l part : List α) : Sits (l ++ part) part l.length := ⟨l, [], by simp, rfl⟩

theorem Sits.left {α : Type} {l part : List α} {b : Nat} (h : Sits l part b) (more : List α) :
    Sits (l ++ more) part b := by
  obtain ⟨pre, post, rfl, hb⟩ := h
  exact ⟨pre, post ++ more, by simp, hb⟩

theorem Sits.right {α : Type} {l part : List α} {b : Nat} (h : Sits l part b) (more : List α) :
    Sits (more ++ l) part (more.length + b) := by
  obtain ⟨pre, post, rfl, rfl⟩ := h
  exact ⟨more ++ pre, post, by simp, by simp⟩

theorem Sits.within {α : Type} {l part inner : List α} {b b' : Nat} (h : Sits l part b) (h' : Sits part inner b') :
    Sits l inner (b + b') := by
  obtain ⟨pre, post, rfl, rfl⟩ := h
  exact (h'.left post).right pre

theorem Sits.at {α : Type} {l part : List α} {b b' : Nat} (h : Sits l part b) (hb : b = b') : Sits l part b' := hb ▸ h

/-- Groups of equal length stand at the multiples of that length. -/
theorem sits_flatMap {α β : Type} (f : β → List α) {n : Nat} (hf : ∀ x, (f x).length = n) {l : List β} {i : Nat} {x : β}
    (h : l[i]? = some x) : Sits (l.flatMap f) (f x) (n * i) := by
  induction l generalizing i with
  | nil => simp at h
  | cons y l ih =>
    rw [List.flatMap_cons]
    cases i with
    | zero =>
      obtain rfl : y = x := by simpa using h
      exact ⟨[], _, rfl, rfl⟩
    | succ i => exact ((ih (by simpa using h)).right (f y)).at (by rw [hf, Nat.mul_succ, Nat.add_comm])

/-! ## The parts of a frame -/

/-- The symbol number at which data group i begins (R83). -/
def SentFrame.dataStart (w : SentFrame) (i : Nat) : Nat :=
  42 + 3 * w.unicast.toNat + (9 + w.unicast.toNat) * i

theorem SentFrame.dataStart_succ (w : SentFrame) (i : Nat) :
    w.dataStart (i + 1) = w.dataStart i + 9 + w.unicast.toNat := by
  rw [SentFrame.dataStart, Nat.mul_succ, SentFrame.dataStart]
  omega

theorem SentFrame.dataStart_mono (w : SentFrame) {i j : Nat} (h : i ≤ j) : w.dataStart i ≤ w.dataStart j :=
  Nat.add_le_add_left (Nat.mul_le_mul_left _ h) _

/-- A field of n bits begins at symbol b, has a value, and errors in it carry a position and a data index (R83, R93). -/
inductive FieldAt (w : SentFrame) : (b n : Nat) → (v : BitVec 12) → FieldPos → BitVec 6 → Prop
  | sender : FieldAt w 2 12 w.sender .sender 0#6
  | receiver : FieldAt w 15 12 w.receiver .receiver 0#6
  | control : FieldAt w (28 + w.unicast.toNat) 4 (w.control.setWidth 12) .control 0#6
  | length : FieldAt w (33 + 2 * w.unicast.toNat) 8 (w.length.setWidth 12) .length 0#6
  | data {i : Nat} {d : Byte} (h : w.data[i]? = some d) :
      FieldAt w (w.dataStart i) 8 (d.setWidth 12) .data (BitVec.ofNat 6 i)

/-- Symbol k is an ack slot, and errors in it carry a position and a data index (R83, R93). -/
inductive SlotAt (w : SentFrame) : Nat → FieldPos → BitVec 6 → Prop
  | addr : SlotAt w 28 .addrAck 0#6
  | control : SlotAt w 34 .controlAck 0#6
  | length : SlotAt w 44 .lengthAck 0#6
  | data {i : Nat} (h : i < w.data.length) : SlotAt w (54 + 10 * i) .dataAck (BitVec.ofNat 6 i)

section

variable {w : SentFrame} {b n : Nat} {v : BitVec 12} {pos : FieldPos} {i : BitVec 6}

theorem FieldAt.width (h : FieldAt w b n v pos i) : 1 ≤ b ∧ n ≤ 12 ∧ v.toNat < 2 ^ n := by
  cases h
  case data => exact ⟨by simp [SentFrame.dataStart]; omega, by decide, by simp; omega⟩
  all_goals exact ⟨by omega, by decide, by simp; omega⟩

/-- The symbols of a head, from one field to the next. -/
theorem FieldAt.sits_symbols (h : FieldAt w b n v pos i) (c : Config) : Sits (w.symbols c) (fieldSymbols n v) b := by
  cases h with
  | sender => exact (((((((Sits.last [_, _] _).left _).left _).left _).left _).left _).left _).left _
  | receiver => exact ((((((Sits.last _ _).at (by simp)).left _).left _).left _).left _).left _ |>.left _
  | control =>
    rw [fieldSymbols_setWidth 4 _ 12 (by decide)]
    exact (((((Sits.last _ _).at (by cases w.unicast <;> simp [slotSymbols])).left _).left _).left _).left _
  | length =>
    rw [fieldSymbols_setWidth 8 _ 12 (by decide)]
    exact (((Sits.last _ _).at (by cases w.unicast <;> simp [slotSymbols])).left _).left _
  | data hd =>
    rw [fieldSymbols_setWidth 8 _ 12 (by decide)]
    have hgroup := sits_flatMap (groupSymbols w.unicast) (n := 9 + w.unicast.toNat)
      (fun d => by cases w.unicast <;> simp [groupSymbols, slotSymbols]) hd
    refine ((hgroup.within ⟨[], _, rfl, rfl⟩).right _).at ?_
    rw [headSymbols_length]
    cases hu : w.unicast <;> simp [SentFrame.dataStart, hu]

/-- The position of a slot, which a broadcast frame does not have. -/
def slotPlaces (unicast : Bool) (p : FieldPos) (i : BitVec 6) : List (FieldPos × BitVec 6) :=
  if unicast then [(p, i)] else []

/-- The positions of a field of n bits, with its parity bit. -/
def fieldPlaces (n : Nat) (p : FieldPos) (i : BitVec 6) : List (FieldPos × BitVec 6) := List.replicate (n + 1) (p, i)

/-- The positions of data group i. -/
def groupPlaces (unicast : Bool) (i : Nat) : List (FieldPos × BitVec 6) :=
  fieldPlaces 8 .data (BitVec.ofNat 6 i) ++ slotPlaces unicast .dataAck (BitVec.ofNat 6 i)

@[simp] theorem slotPlaces_length (u : Bool) (p : FieldPos) (i : BitVec 6) : (slotPlaces u p i).length = u.toNat := by
  cases u <;> rfl

@[simp] theorem fieldPlaces_length (n : Nat) (p : FieldPos) (i : BitVec 6) : (fieldPlaces n p i).length = n + 1 :=
  List.length_replicate

theorem groupPlaces_length (u : Bool) (i : Nat) : (groupPlaces u i).length = 9 + u.toNat := by simp [groupPlaces]

/-- The positions of a head, field by field, and those of its groups. -/
theorem symbolPlaces_eq (u : Bool) (len : Nat) :
    symbolPlaces u len = [(FieldPos.start, 0#6), (FieldPos.mode, 0#6)] ++ fieldPlaces 12 FieldPos.sender 0#6 ++
      fieldPlaces 12 FieldPos.receiver 0#6 ++ slotPlaces u FieldPos.addrAck 0#6 ++ fieldPlaces 4 FieldPos.control 0#6 ++
      slotPlaces u FieldPos.controlAck 0#6 ++ fieldPlaces 8 FieldPos.length 0#6 ++
      slotPlaces u FieldPos.lengthAck 0#6 ++ (List.range len).flatMap (groupPlaces u) := rfl

theorem sits_group (u : Bool) {len i : Nat} (h : i < len) :
    Sits ((List.range len).flatMap (groupPlaces u)) (groupPlaces u i) ((9 + u.toNat) * i) :=
  sits_flatMap (groupPlaces u) (groupPlaces_length u) (by rw [List.getElem?_range h])

theorem FieldAt.sits_places (h : FieldAt w b n v pos i) :
    Sits (symbolPlaces w.unicast w.data.length) (fieldPlaces n pos i) b := by
  rw [symbolPlaces_eq]
  cases h with
  | sender => exact (((((((Sits.last [_, _] _).left _).left _).left _).left _).left _).left _).left _
  | receiver => exact ((((((Sits.last _ _).at (by simp)).left _).left _).left _).left _).left _ |>.left _
  | control => exact (((((Sits.last _ _).at (by simp; omega)).left _).left _).left _).left _
  | length => exact (((Sits.last _ _).at (by simp; omega)).left _).left _
  | data hd =>
    obtain ⟨hlt, -⟩ := List.getElem?_eq_some_iff.mp hd
    exact (((sits_group w.unicast hlt).within ⟨[], _, rfl, rfl⟩).right _).at (by simp [SentFrame.dataStart]; omega)

theorem SlotAt.sits_places {k : Nat} (h : SlotAt w k pos i) (hu : w.unicast = true) :
    Sits (symbolPlaces w.unicast w.data.length) [(pos, i)] k := by
  rw [symbolPlaces_eq, hu]
  cases h with
  | addr => exact ((((((Sits.last _ _).at (by simp)).left _).left _).left _).left _).left _
  | control => exact ((((Sits.last _ _).at (by simp)).left _).left _).left _
  | length => exact ((Sits.last _ _).at (by simp)).left _
  | data hd => exact (((sits_group true hd).within (Sits.last _ _)).right _).at (by simp; omega)

/-- The places of a field and of a slot, symbol by symbol. -/
theorem FieldAt.place (h : FieldAt w b n v pos i) {j : Nat} (hb : b ≤ j) (hj : j ≤ b + n) :
    (symbolPlaces w.unicast w.data.length)[j]? = some (pos, i) := by
  obtain ⟨m, rfl⟩ : ∃ m, j = b + m := ⟨j - b, by omega⟩
  rw [h.sits_places.getElem? (by rw [fieldPlaces_length]; omega), fieldPlaces, List.getElem?_replicate, if_pos (by omega)]

theorem SlotAt.place {k : Nat} (h : SlotAt w k pos i) (hu : w.unicast = true) :
    (symbolPlaces w.unicast w.data.length)[k]? = some (pos, i) :=
  (h.sits_places hu).getElem? (m := 0) Nat.one_pos

/-- The bits of a field, symbol by symbol. -/
theorem FieldAt.symbol (h : FieldAt w b n v pos i) (c : Config) {m : Nat} (hm : m ≤ n) :
    (w.symbols c)[b + m]? = ((bitsMsb n v ++ [parity n v])[m]?).map Symbol.ofBit := by
  rw [(h.sits_symbols c).getElem? (by rw [fieldSymbols_length]; omega), fieldSymbols_eq, List.getElem?_map]

theorem FieldAt.symbol_parity (h : FieldAt w b n v pos i) (c : Config) :
    (w.symbols c)[b + n]? = some (.ofBit (parity n v)) := by
  rw [h.symbol c le_rfl, List.getElem?_append_right (bitsMsb_length n v).le, bitsMsb_length, Nat.sub_self]
  rfl

/-! ## Numbers -/

theorem SentFrame.mem_slots {k : Nat} :
    k ∈ w.slots ↔ w.unicast = true ∧ (k = 28 ∨ k = 34 ∨ k = 44 ∨ ∃ i < w.data.length, k = 54 + 10 * i) := by
  cases hu : w.unicast <;>
    simp [SentFrame.slots, slotNumbers, hu, ackSlots, headAckSlots, dataPlaces, eq_comm (a := k)]

theorem SlotAt.mem_slots {k : Nat} (h : SlotAt w k pos i) (hu : w.unicast = true) : k ∈ w.slots := by
  rw [SentFrame.mem_slots]
  cases h with
  | addr => exact ⟨hu, .inl rfl⟩
  | control => exact ⟨hu, .inr (.inl rfl)⟩
  | length => exact ⟨hu, .inr (.inr (.inl rfl))⟩
  | data h => exact ⟨hu, .inr (.inr (.inr ⟨_, h, rfl⟩))⟩

theorem SentFrame.mem_answered {c : Config} {k : Nat} :
    k ∈ w.answered c ↔ w.unicast = true ∧ w.receiver = c.myAddr ∧ k ∈ w.slots := by
  rw [SentFrame.answered]
  split
  next h => simp_all
  next h => simp_all

theorem SentFrame.answered_sub {c : Config} {k : Nat} (h : k ∈ w.answered c) : k ∈ w.slots :=
  (SentFrame.mem_answered.mp h).2.2

/-- The first symbols and the widths of the fields of a frame (R83). -/
theorem FieldAt.numbers (h : FieldAt w b n v pos i) :
    ∃ q, (w.unicast = true ∧ (b = 2 ∧ n = 12 ∨ b = 15 ∧ n = 12 ∨ b = 29 ∧ n = 4 ∨ b = 35 ∧ n = 8 ∨
        b = 45 + 10 * q ∧ n = 8)) ∨
      (w.unicast = false ∧ (b = 2 ∧ n = 12 ∨ b = 15 ∧ n = 12 ∨ b = 28 ∧ n = 4 ∨ b = 33 ∧ n = 8 ∨
        b = 42 + 9 * q ∧ n = 8)) := by
  cases h with
  | @data q _ _ => exact ⟨q, by cases hu : w.unicast <;> simp [SentFrame.dataStart, hu]⟩
  | _ => exact ⟨0, by cases hu : w.unicast <;> simp⟩

/-- No symbol of a field is a slot. -/
theorem FieldAt.not_slot (h : FieldAt w b n v pos i) {j : Nat} (hb : b ≤ j) (hj : j ≤ b + n) : j ∉ w.slots := by
  intro hslot
  obtain ⟨hu, hslot⟩ := SentFrame.mem_slots.mp hslot
  obtain ⟨q, ⟨-, hfield⟩ | ⟨hu', -⟩⟩ := h.numbers
  · rcases hslot with hslot | hslot | hslot | ⟨p, -, hslot⟩ <;> omega
  · simp [hu] at hu'

theorem two_le_of_mem_slots {k : Nat} (h : k ∈ w.slots) : 2 ≤ k := by
  obtain ⟨-, rfl | rfl | rfl | ⟨q, -, rfl⟩⟩ := SentFrame.mem_slots.mp h <;> omega

/-- The symbols of a frame, and so its pulses, end with its last data group. -/
theorem SentFrame.symbols_length (c : Config) : (w.symbols c).length = w.dataStart w.data.length := by
  rw [SentFrame.symbols, List.length_append, headSymbols_length, groups_length]
  cases hu : w.unicast <;> simp [SentFrame.dataStart, hu]

theorem symbolPlaces_length : (symbolPlaces w.unicast w.data.length).length = w.dataStart w.data.length := by
  have hgroups (u : Bool) (l : List Nat) : (l.flatMap (groupPlaces u)).length = (9 + u.toNat) * l.length := by
    simp only [List.length_flatMap, groupPlaces_length, List.map_const', List.sum_replicate, smul_eq_mul]
    exact Nat.mul_comm _ _
  rw [symbolPlaces_eq, List.length_append, hgroups, List.length_range]
  cases hu : w.unicast <;> simp [SentFrame.dataStart, hu]

theorem lt_dataStart_of_mem_slots {k : Nat} (h : k ∈ w.slots) : k < w.dataStart w.data.length := by
  obtain ⟨hu, h⟩ := SentFrame.mem_slots.mp h
  rw [SentFrame.dataStart, hu, Bool.toNat_true]
  rcases h with rfl | rfl | rfl | ⟨q, hq, rfl⟩ <;> omega

/-- A parity bit is the last symbol of its field (R83, R84). -/
theorem field_of_parityBit {k : Nat} (h : (k, pos, i) ∈ parityBits w.unicast w.data.length) :
    ∃ b n v, FieldAt w b n v pos i ∧ k = b + n := by
  rw [parityBits, List.mem_append] at h
  rcases h with h | h
  · have hhead : (k = 2 + 12 ∧ pos = .sender ∧ i = 0#6) ∨ (k = 15 + 12 ∧ pos = .receiver ∧ i = 0#6) ∨
        (k = 28 + w.unicast.toNat + 4 ∧ pos = .control ∧ i = 0#6) ∨
        (k = 33 + 2 * w.unicast.toNat + 8 ∧ pos = .length ∧ i = 0#6) := by
      cases hu : w.unicast <;> simpa [headParityBits, hu] using h
    rcases hhead with ⟨rfl, rfl, rfl⟩ | ⟨rfl, rfl, rfl⟩ | ⟨rfl, rfl, rfl⟩ | ⟨rfl, rfl, rfl⟩
    · exact ⟨_, _, _, .sender, rfl⟩
    · exact ⟨_, _, _, .receiver, rfl⟩
    · exact ⟨_, _, _, .control, rfl⟩
    · exact ⟨_, _, _, .length, rfl⟩
  · have hdata : ∃ m < w.data.length, k = w.dataStart m + 8 ∧ pos = .data ∧ i = BitVec.ofNat 6 m := by
      cases hu : w.unicast <;> rw [hu] at h <;> obtain ⟨m, hm, hk⟩ := List.mem_map.mp h <;>
        obtain ⟨rfl, rfl, rfl⟩ : _ = k ∧ _ = pos ∧ _ = i := by simpa using hk
      all_goals exact ⟨m, List.mem_range.mp hm, by simp [SentFrame.dataStart, hu]; omega, rfl, rfl⟩
    obtain ⟨m, hm, rfl, rfl, rfl⟩ := hdata
    exact ⟨_, _, _, .data (List.getElem?_eq_getElem hm), rfl⟩

/-- Among the symbols of a field only its last one is a parity bit. -/
theorem FieldAt.parity_last (h : FieldAt w b n v pos i) {b' n' : Nat} {v' : BitVec 12} {pos' : FieldPos} {i' : BitVec 6}
    (h' : FieldAt w b' n' v' pos' i') (hb : b ≤ b' + n') (hn : b' + n' ≤ b + n) : b' + n' = b + n := by
  obtain ⟨q, ⟨hu, hf⟩ | ⟨hu, hf⟩⟩ := h.numbers <;> obtain ⟨q', ⟨hu', hf'⟩ | ⟨hu', hf'⟩⟩ := h'.numbers
  · omega
  · simp [hu] at hu'
  · simp [hu] at hu'
  · omega

end

end Sys2Proof.Machine
end

section
/-! SUPPORT. A receiver within a frame of another agent (R85, R113, R118, R274): what it hears of each pulse, and where its
receive steps leave it. -/

namespace Sys2Proof.Machine

/-! ## The ticks of the pulses -/

theorem pulseStart_step {ps : List (Nat × Nat)} {j d n : Nat} (t0 : Nat) (h : ps[j]? = some (d, n)) :
    pulseStart t0 ps (j + 1) = pulseStart t0 ps j + n := by
  rw [pulseStart, List.take_add_one, h, pulseStart]
  simp [Nat.add_assoc]

theorem pulseStart_mono (t0 : Nat) (ps : List (Nat × Nat)) {i j : Nat} (h : i ≤ j) :
    pulseStart t0 ps i ≤ pulseStart t0 ps j := by
  obtain ⟨m, rfl⟩ := Nat.exists_eq_add_of_le h
  rw [pulseStart, pulseStart, List.take_add]
  simp only [List.map_append, List.sum_append]
  omega

/-- The tick at which a read that has heard the pulses before pulse j begins to wait for it. -/
def SentFrame.readyAt (w : SentFrame) (s0 : State) (t0 : Nat) (ps : List (Nat × Nat)) : (j : Nat) → Nat
  | 0 => s0.now
  | j + 1 => w.pulseEnd s0.cfg t0 ps j

section

variable {w : SentFrame} {s0 : State} {syms : List Symbol} {t0 K : Nat} {ps : List (Nat × Nat)}

theorem SentFrame.le_heldFor (c : Config) (k d : Nat) : d ≤ w.heldFor c k d := by
  rw [SentFrame.heldFor]
  split <;> omega

theorem SentFrame.heldFor_answered {c : Config} {k : Nat} (h : k ∈ w.answered c) (d : Nat) :
    w.heldFor c k d = max d c.t0Driven := if_pos (List.contains_iff_mem.mpr h)

theorem SentFrame.heldFor_other {c : Config} {k : Nat} (h : k ∉ w.answered c) (d : Nat) : w.heldFor c k d = d :=
  if_neg (fun hk => h (List.contains_iff_mem.mp hk))

theorem SentFrame.pulseEnd_eq {c : Config} {j d n : Nat} (h : ps[j]? = some (d, n)) :
    w.pulseEnd c t0 ps j = pulseStart t0 ps j + w.heldFor c j d := by
  rw [SentFrame.pulseEnd, List.getD_eq_getElem?_getD, h, Option.getD_some]

theorem SentFrame.two_le_of_answered {c : Config} {k : Nat} (h : k ∈ w.answered c) : 2 ≤ k :=
  two_le_of_mem_slots (SentFrame.answered_sub h)

namespace SentFrame.Heard

/-- Every symbol has its pulse. -/
theorem pulse (H : w.Heard s0 syms t0 ps K) {j : Nat} {x : Symbol} (hx : syms[j]? = some x) :
    ∃ d n, ps[j]? = some (d, n) ∧ w.PulseFits s0.cfg j x (d, n) := by
  obtain ⟨hlen, hfits⟩ := H.fits
  have hj : j < ps.length := by rw [hlen]; exact (List.getElem?_eq_some_iff.mp hx).1
  refine ⟨ps[j].1, ps[j].2, List.getElem?_eq_getElem hj, ?_⟩
  refine hfits ((x, ps[j]), j) (List.mem_zipIdx_iff_getElem?.mpr ?_)
  exact List.getElem?_zip_eq_some.mpr ⟨hx, List.getElem?_eq_getElem hj⟩

theorem symbol (H : w.Heard s0 syms t0 ps K) {j d n : Nat} (hp : ps[j]? = some (d, n)) :
    ∃ x, syms[j]? = some x ∧ w.PulseFits s0.cfg j x (d, n) := by
  have hj : j < syms.length := by rw [← H.fits.1]; exact (List.getElem?_eq_some_iff.mp hp).1
  obtain ⟨d', n', hp', hfits⟩ := H.pulse (List.getElem?_eq_getElem hj)
  obtain ⟨rfl, rfl⟩ : d = d' ∧ n = n' := by simpa [hp] using hp'
  exact ⟨_, List.getElem?_eq_getElem hj, hfits⟩

/-- A pulse is over before the next one begins. -/
theorem pulseEnd_lt (H : w.Heard s0 syms t0 ps K) {i j : Nat} (hi : i < j) (hlen : i < ps.length) :
    w.pulseEnd s0.cfg t0 ps i < pulseStart t0 ps j := by
  have hp := List.getElem?_eq_getElem hlen
  obtain ⟨x, -, -, hlt, -⟩ := H.symbol hp
  calc w.pulseEnd s0.cfg t0 ps i < pulseStart t0 ps (i + 1) := by
        rw [SentFrame.pulseEnd_eq hp, pulseStart_step t0 hp]
        exact Nat.add_lt_add_left hlt _
    _ ≤ pulseStart t0 ps j := pulseStart_mono t0 ps hi

theorem pulseEnd_mono (H : w.Heard s0 syms t0 ps K) {i j : Nat} (hi : i ≤ j) (hlen : i < ps.length) :
    w.pulseEnd s0.cfg t0 ps i ≤ w.pulseEnd s0.cfg t0 ps j := by
  obtain rfl | hi := Nat.eq_or_lt_of_le hi
  · exact le_rfl
  · exact (H.pulseEnd_lt hi hlen).le.trans (Nat.le_add_right _ _)

/-- What a read sees of the start bit, which may have begun (R274). -/
theorem start_seen (H : w.Heard s0 syms t0 ps K) {d n : Nat} (hp : ps[0]? = some (d, n)) :
    FindsStart s0.cfg s0.now t0 d ∧ w.pulseEnd s0.cfg t0 ps 0 = t0 + d := by
  refine ⟨H.start _ (by rw [List.head?_eq_getElem?]; exact hp), ?_⟩
  rw [SentFrame.pulseEnd_eq hp, pulseStart_zero, SentFrame.heldFor_other]
  exact fun h => absurd (SentFrame.two_le_of_answered h) (by decide)

theorem now_le_readyAt (H : w.Heard s0 syms t0 ps K) {j : Nat} (hj : 0 < ps.length) :
    s0.now ≤ w.readyAt s0 t0 ps j := by
  cases j with
  | zero => exact le_rfl
  | succ j =>
    obtain ⟨⟨-, hshort, -⟩, hend⟩ := H.start_seen (List.getElem?_eq_getElem hj)
    calc s0.now ≤ w.pulseEnd s0.cfg t0 ps 0 := by omega
      _ ≤ w.pulseEnd s0.cfg t0 ps j := H.pulseEnd_mono (Nat.zero_le j) hj

/-- The read waits for a pulse after every earlier acknowledgment of its own. -/
theorem ack_le_readyAt (H : w.Heard s0 syms t0 ps K) {i j : Nat} (hi : i < j) (hlen : i < ps.length)
    (hack : i ∈ w.answered s0.cfg) : pulseStart t0 ps i + s0.cfg.t0Driven ≤ w.readyAt s0 t0 ps j := by
  obtain ⟨j, rfl⟩ : ∃ m, j = m + 1 := ⟨j - 1, by omega⟩
  refine le_trans ?_ (H.pulseEnd_mono (Nat.le_of_lt_succ hi) hlen)
  rw [SentFrame.pulseEnd, SentFrame.heldFor_answered hack]
  omega

/-- The line from the end of the pulse before to the end of pulse j: the others drive for the length of that pulse. -/
theorem line_at (H : w.Heard s0 syms t0 ps K) {j d n u : Nat} (hK : j ≤ K) (hp : ps[j]? = some (d, n))
    (hlo : w.readyAt s0 t0 ps j ≤ u) (hhi : u ≤ w.pulseEnd s0.cfg t0 ps j)
    (hack : j ∈ w.answered s0.cfg → ¬ (pulseStart t0 ps j < u ∧ u < pulseStart t0 ps j + s0.cfg.t0Driven)) :
    envDrives s0.env u = (decide (pulseStart t0 ps j ≤ u) && decide (u < pulseStart t0 ps j + d)) := by
  obtain ⟨hj, -⟩ := List.getElem?_eq_some_iff.mp hp
  obtain ⟨x, -, -, hn, -⟩ := H.symbol hp
  replace hn : w.heldFor s0.cfg j d < n := hn
  have hle : ∀ q ∈ ps, q.1 ≤ q.2 := by
    intro q hq
    obtain ⟨m, hm⟩ := List.getElem?_of_mem hq
    obtain ⟨-, -, -, hlt, -⟩ := H.symbol hm
    exact (SentFrame.le_heldFor _ _ _).trans hlt.le
  rw [H.line u ((H.now_le_readyAt (by omega)).trans hlo) (hhi.trans (H.pulseEnd_mono hK hj)) ?others]
  case others =>
    intro i hi ⟨hlt, hgt⟩
    rcases Nat.lt_trichotomy i j with hij | rfl | hij
    · have := H.ack_le_readyAt hij (hij.trans hj) hi
      omega
    · exact hack hi ⟨hlt, hgt⟩
    · have := H.pulseEnd_lt hij hj
      omega
  by_cases hu : pulseStart t0 ps j ≤ u
  · rw [pulseWave_within hle hp hu (by rw [SentFrame.pulseEnd_eq hp] at hhi; omega), decide_eq_true hu, Bool.true_and]
  · rw [decide_eq_false hu, Bool.false_and]
    cases j with
    | zero => exact pulseWave_before _ _ (by rw [pulseStart_zero] at hu; omega)
    | succ j =>
      obtain ⟨⟨d', n'⟩, hp'⟩ : ∃ p, ps[j]? = some p := ⟨_, List.getElem?_eq_getElem (by omega)⟩
      rw [SentFrame.readyAt, SentFrame.pulseEnd_eq hp'] at hlo
      rw [pulseStart_step t0 hp'] at hu
      have := SentFrame.le_heldFor (w := w) s0.cfg j d'
      rw [pulseWave_within hle hp' (by omega) (by omega), decide_eq_false (by omega)]

end SentFrame.Heard

/-! ## Within a read -/

/-- A read has heard the pulses before pulse j and waits for it; it has answered in the slots among them. -/
structure AtPulse (w : SentFrame) (s0 : State) (t0 : Nat) (ps : List (Nat × Nat)) (j : Nat) (s : State) : Prop where
  cfg : s.cfg = s0.cfg
  env : s.env = s0.env
  drv : s.drv = false
  now : s.now = w.readyAt s0 t0 ps j
  log : ∀ u, s0.now ≤ u →
    drvAt s.drvLog u = acksAt s0.cfg t0 ps ((w.answered s0.cfg).filter (fun k => decide (k < j))) u

variable {j : Nat} {s : State}

/-- It does not matter what a read notes down between the pulses. -/
theorem AtPulse.of_eq (h : AtPulse w s0 t0 ps j s) {s' : State} (hcfg : s'.cfg = s.cfg := by rfl)
    (henv : s'.env = s.env := by rfl) (hdrv : s'.drv = s.drv := by rfl) (hnow : s'.now = s.now := by rfl)
    (hlog : s'.drvLog = s.drvLog := by rfl) : AtPulse w s0 t0 ps j s' where
  cfg := hcfg.trans h.cfg
  env := henv.trans h.env
  drv := hdrv.trans h.drv
  now := hnow.trans h.now
  log := by rw [hlog]; exact h.log

/-- At its entry a read has answered in no slot. -/
theorem atPulse_zero (hsafe : Safe s0) : AtPulse w s0 t0 ps 0 s0 where
  cfg := rfl
  env := rfl
  drv := hsafe.2.drvReleased
  now := rfl
  log u hu := by rw [hsafe.drvAt_eq_false hu]; simp [acksAt]

theorem filter_lt_succ_of_notMem {l : List Nat} (h : j ∉ l) :
    l.filter (fun k => decide (k < j + 1)) = l.filter (fun k => decide (k < j)) := by
  refine List.filter_congr fun k hk => ?_
  have : k ≠ j := fun hkj => h (hkj ▸ hk)
  grind

theorem acksAt_filter_lt_succ_of_mem {c : Config} {l : List Nat} {u : Nat} (h : j ∈ l) :
    acksAt c t0 ps (l.filter (fun k => decide (k < j + 1))) u =
      (acksAt c t0 ps (l.filter (fun k => decide (k < j))) u ||
        (decide (pulseStart t0 ps j ≤ u) && decide (u < pulseStart t0 ps j + c.t0Driven))) := by
  rw [Bool.eq_iff_iff]
  simp only [acksAt, List.any_eq_true, List.mem_filter, Bool.or_eq_true, Bool.and_eq_true, decide_eq_true_eq]
  constructor
  · rintro ⟨k, ⟨hk, hlt⟩, hu⟩
    obtain rfl | hlt := Nat.eq_or_lt_of_le (Nat.le_of_lt_succ hlt)
    · exact .inr hu
    · exact .inl ⟨k, ⟨hk, hlt⟩, hu⟩
  · rintro (⟨k, ⟨hk, hlt⟩, hu⟩ | hu)
    · exact ⟨k, ⟨hk, Nat.lt_succ_of_lt hlt⟩, hu⟩
    · exact ⟨j, ⟨h, Nat.lt_succ_self j⟩, hu⟩

/-- The read has stopped driving before it waits for the next pulse. -/
theorem SentFrame.Heard.acks_over (H : w.Heard s0 syms t0 ps K) (hj : j ≤ ps.length) {u : Nat}
    (hu : w.readyAt s0 t0 ps j ≤ u) :
    acksAt s0.cfg t0 ps ((w.answered s0.cfg).filter (fun k => decide (k < j))) u = false := by
  simp only [acksAt, List.any_eq_false, List.mem_filter, Bool.and_eq_true, decide_eq_true_eq]
  rintro k ⟨hk, hlt⟩ ⟨-, hu'⟩
  have := H.ack_le_readyAt hlt (by omega) hk
  omega

/-- The pulse of a bit. -/
theorem SentFrame.Heard.bit_pulse (H : w.Heard s0 syms t0 ps K) (hwf : s0.cfg.wf = true) {v : Bool}
    (hx : syms[j]? = some (.ofBit v)) (hslot : j ∉ w.slots) :
    ∃ d n, ps[j]? = some (d, n) ∧ d ≤ s0.cfg.tMaxBit ∧ decide (d < s0.cfg.tThreshold) = v := by
  obtain ⟨d, n, hp, -, -, -, hfits⟩ := H.pulse hx
  rw [if_neg (fun h => hslot (SentFrame.answered_sub (List.contains_iff_mem.mp h))),
    if_neg (fun h => hslot (List.contains_iff_mem.mp h))] at hfits
  have := wf_timing hwf
  refine ⟨d, n, hp, ?_⟩
  cases v with
  | true =>
    have := hfits.1 rfl
    exact ⟨by omega, decide_eq_true this⟩
  | false =>
    have := hfits.2 rfl
    exact ⟨by omega, decide_eq_false (by omega)⟩

/-- The pulse in a slot that the core reads without answering. -/
theorem SentFrame.Heard.slot_pulse (H : w.Heard s0 syms t0 ps K) (hj : j < ps.length) (hslot : j ∈ w.slots)
    (hack : j ∉ w.answered s0.cfg) : ∃ d n, ps[j]? = some (d, n) ∧ d ≤ s0.cfg.tMaxBit := by
  obtain ⟨x, -, -, -, -, hfits⟩ := H.symbol (List.getElem?_eq_getElem hj)
  rw [if_neg (fun h => hack (List.contains_iff_mem.mp h)), if_pos (List.contains_iff_mem.mpr hslot)] at hfits
  exact ⟨_, _, List.getElem?_eq_getElem hj, hfits⟩

/-- The next pulse comes within `RX_TIMEOUT`. -/
theorem SentFrame.Heard.gap (H : w.Heard s0 syms t0 ps K) (h1 : 1 ≤ j) (hj : j < ps.length) :
    ∃ g, pulseStart t0 ps j = w.readyAt s0 t0 ps j + g ∧ g < s0.cfg.rxTimeout := by
  obtain ⟨j, rfl⟩ : ∃ m, j = m + 1 := ⟨j - 1, by omega⟩
  obtain ⟨⟨d, n⟩, hp⟩ : ∃ p, ps[j]? = some p := ⟨_, List.getElem?_eq_getElem (by omega)⟩
  obtain ⟨x, -, -, hlt, hgap, -⟩ := H.symbol hp
  replace hlt : w.heldFor s0.cfg j d < n := hlt
  replace hgap : n < w.heldFor s0.cfg j d + s0.cfg.rxTimeout := hgap
  rw [SentFrame.readyAt, SentFrame.pulseEnd_eq hp, pulseStart_step t0 hp]
  exact ⟨n - w.heldFor s0.cfg j d, by omega, by omega⟩

/-- RX_BIT takes the pulse of a bit, or one in a slot that is not answered, as the bit of its class (R113, R149). -/
theorem rxBit_at_pulse (H : w.Heard s0 syms t0 ps K) (hwf : s0.cfg.wf = true) (h : AtPulse w s0 t0 ps j s)
    (h1 : 1 ≤ j) (hK : j ≤ K) {d n : Nat} (hp : ps[j]? = some (d, n)) (hack : j ∉ w.answered s0.cfg)
    (hd : d ≤ s0.cfg.tMaxBit) :
    ∃ t, rxBit s = .ok (decide (d < s.cfg.tThreshold)) t ∧ AtPulse w s0 t0 ps (j + 1) t ∧
      t.par = accumulate s.par (decide (d < s.cfg.tThreshold)) ∧ t.shift = s.shift ∧ t.wfr = s.wfr := by
  obtain ⟨hj, -⟩ := List.getElem?_eq_some_iff.mp hp
  obtain ⟨x, -, hpos, -⟩ := H.symbol hp
  obtain ⟨g, hg, hgap⟩ := H.gap h1 hj
  have hend : w.pulseEnd s0.cfg t0 ps j = s.now + g + d := by
    rw [SentFrame.pulseEnd_eq hp, SentFrame.heldFor_other hack, hg, h.now]
  rw [← h.now] at hg
  have hline (u : Nat) (hlo : s.now ≤ u) (hhi : u ≤ s.now + g + d) :
      envDrives s.env u = (decide (s.now + g ≤ u) && decide (u < s.now + g + d)) := by
    rw [h.env, H.line_at hK hp (h.now ▸ hlo) (hend ▸ hhi) (fun hmem => absurd hmem hack), hg]
  have hpulse : PulseAt s.env s.now g d := by
    refine ⟨fun u hlo hhi => ?_, fun u hlo hhi => ?_, ?_⟩
    · rw [hline u hlo (by omega), decide_eq_false (by omega), Bool.false_and]
    · rw [hline u (by omega) (by omega), decide_eq_true hlo, decide_eq_true hhi, Bool.true_and]
    · rw [hline _ (by omega) le_rfl, decide_eq_false (Nat.lt_irrefl _), Bool.and_false]
  refine ⟨_, rxBit_pulse (h.cfg ▸ hwf) h.drv (h.cfg ▸ hgap) hpos (h.cfg ▸ hd) hpulse, ?_, rfl, rfl, rfl⟩
  exact
    { cfg := h.cfg, env := h.env, drv := h.drv, now := hend.symm,
      log := fun u hu => by rw [filter_lt_succ_of_notMem hack]; exact h.log u hu }

/-- ACK_SEND answers in a slot of a frame for this device (R118). -/
theorem ackSend_at_pulse (H : w.Heard s0 syms t0 ps K) (h : AtPulse w s0 t0 ps j s) (hK : j ≤ K)
    (hj : j < ps.length) (hack : j ∈ w.answered s0.cfg) :
    ∃ t, ackSend s = .ok () t ∧ AtPulse w s0 t0 ps (j + 1) t ∧ t.wfr = s.wfr := by
  obtain ⟨⟨d, n⟩, hp⟩ : ∃ p, ps[j]? = some p := ⟨_, List.getElem?_eq_getElem hj⟩
  obtain ⟨x, -, hpos, -, -, hfits⟩ := H.symbol hp
  rw [if_pos (List.contains_iff_mem.mpr hack)] at hfits
  replace hfits : d < s0.cfg.t0Driven + s0.cfg.rxTimeout := hfits
  replace hpos : 1 ≤ d := hpos
  obtain ⟨g, hg, hgap⟩ := H.gap (Nat.le_of_succ_le (SentFrame.two_le_of_answered hack)) hj
  obtain ⟨e, he⟩ : ∃ e, max d s0.cfg.t0Driven = s0.cfg.t0Driven + e :=
    ⟨max d s0.cfg.t0Driven - s0.cfg.t0Driven, by omega⟩
  have hend : w.pulseEnd s0.cfg t0 ps j = s.now + g + s.cfg.t0Driven + e := by
    rw [SentFrame.pulseEnd_eq hp, SentFrame.heldFor_answered hack, hg, h.now, he, h.cfg, Nat.add_assoc _ _ e]
  rw [← h.now] at hg
  have hline (u : Nat) (hlo : s.now ≤ u) (hhi : u ≤ s.now + g + s.cfg.t0Driven + e)
      (hown : ¬ (s.now + g < u ∧ u < s.now + g + s.cfg.t0Driven)) :
      envDrives s.env u = (decide (s.now + g ≤ u) && decide (u < s.now + g + d)) := by
    rw [h.env, H.line_at hK hp (h.now ▸ hlo) (hend ▸ hhi) (fun _ => by rwa [hg, ← h.cfg]), hg]
  have hok : ackSend s = .ok () _ :=
    ackSend_held (e := e) h.drv (h.cfg ▸ hgap) rfl (by rw [h.cfg]; omega)
      (fun u hlo hhi => by rw [hline u hlo (by omega) (by omega), decide_eq_false (by omega), Bool.false_and])
      (by rw [hline _ (by omega) (by omega) (by omega), decide_eq_true le_rfl, decide_eq_true (by omega), Bool.true_and])
      (fun u hlo hhi => by
        rw [h.cfg] at hlo hhi
        rw [hline u (by omega) (by rw [h.cfg]; omega) (by rw [h.cfg]; omega), decide_eq_true (by omega),
          decide_eq_true (by omega), Bool.true_and])
      (by rw [hline _ (by omega) le_rfl (by omega), h.cfg, decide_eq_false (p := _ < _) (by omega), Bool.and_false])
  refine ⟨_, hok, ⟨h.cfg, h.env, rfl, hend.symm, fun u hu => ?_⟩, rfl⟩
  rw [acksAt_filter_lt_succ_of_mem hack, hg]
  by_cases hown : s.now + g ≤ u
  · rw [drvAt_drive _ _ _ _ hown, H.acks_over hj.le (h.now ▸ (by omega)), decide_eq_true hown, h.cfg, Bool.true_and,
      Bool.false_or]
  · rw [drvAt_drive_before _ _ _ _ (by omega), h.log u hu, decide_eq_false hown, Bool.false_and, Bool.or_false]

/-- RX_START accepts the start bit (R116, R274). -/
theorem rxStart_at_pulse (H : w.Heard s0 syms t0 ps K) (hwf : s0.cfg.wf = true) (h : AtPulse w s0 t0 ps 0 s)
    (hj : 0 < ps.length) : ∃ t, rxStart s = .ok () t ∧ AtPulse w s0 t0 ps 1 t := by
  obtain ⟨⟨d, n⟩, hp⟩ : ∃ p, ps[0]? = some p := ⟨_, List.getElem?_eq_getElem hj⟩
  obtain ⟨⟨hsoon, hshort, hlong⟩, hend⟩ := H.start_seen hp
  have hack : 0 ∉ w.answered s0.cfg := fun hmem => absurd (SentFrame.two_le_of_answered hmem) (by decide)
  have hnow : s.now = s0.now := h.now
  rw [← hnow] at hsoon hshort hlong
  obtain ⟨g, hg⟩ : ∃ g, max s.now t0 = s.now + g := ⟨max s.now t0 - s.now, by omega⟩
  obtain ⟨e, he⟩ : ∃ e, t0 + d = s.now + g + e := ⟨t0 + d - (s.now + g), by omega⟩
  rw [he] at hend
  have hline (u : Nat) (hlo : s.now ≤ u) (hhi : u ≤ s.now + g + e) :
      envDrives s.env u = (decide (t0 ≤ u) && decide (u < s.now + g + e)) := by
    rw [h.env, H.line_at (Nat.zero_le K) hp (hnow.ge.trans hlo) (hend ▸ hhi) (fun hmem => absurd hmem hack),
      pulseStart_zero, he]
  have hpulse : PulseAt s.env s.now g e := by
    refine ⟨fun u hlo hhi => ?_, fun u hlo hhi => ?_, ?_⟩
    · rw [hline u hlo (by omega), decide_eq_false (by omega), Bool.false_and]
    · rw [hline u (by omega) (by omega), decide_eq_true (by omega), decide_eq_true hhi, Bool.true_and]
    · rw [hline _ (by omega) le_rfl, decide_eq_false (Nat.lt_irrefl _), Bool.and_false]
  have := wf_timing hwf
  refine ⟨_, rxStart_pulse (h.cfg ▸ hwf) h.drv (by rw [h.cfg]; omega) (by rw [h.cfg]; omega) (by rw [h.cfg]; omega)
    hpulse, ?_⟩
  exact
    { cfg := h.cfg, env := h.env, drv := h.drv, now := hend.symm,
      log := fun u hu => by rw [filter_lt_succ_of_notMem hack]; exact h.log u hu }

end

end Sys2Proof.Machine
end

section
/-! SUPPORT. READ_FRAME on a frame that reaches it up to some symbol (R148, R149, R150): each of its steps goes on with what
was sent, or ends at that symbol. -/

namespace Sys2Proof.Machine

section

variable {w : SentFrame} {s0 : State} {syms : List Symbol} {t0 K : Nat} {ps : List (Nat × Nat)} {stop b n : Nat}
  {e : ResultReg} {L : State → Prop} {s : State} {v : BitVec 12} {pos : FieldPos} {i : BitVec 6}

/-- A part of a read, which ends at symbol `stop` with error e in a state as L says: the part goes on to symbol b, unless the
read ends before. -/
structure Reads (w : SentFrame) (s0 : State) (t0 : Nat) (ps : List (Nat × Nat)) (stop : Nat) (e : ResultReg)
    (L : State → Prop) {α : Type} (b : Nat) (r : Res α) (Q : α → State → Prop) : Prop where
  on : b ≤ stop → ∃ a t, r = .ok a t ∧ AtPulse w s0 t0 ps b t ∧ Q a t
  off : stop < b → ∃ t, r = .err e t ∧ L t

section

variable {α β : Type} {m : Nat} {r : Res α} {Q : α → State → Prop}

theorem Reads.andThen {k : α → State → Res β} {Q' : β → State → Prop} (hr : Reads w s0 t0 ps stop e L m r Q)
    (hm : m ≤ b) (hk : ∀ a t, m ≤ stop → AtPulse w s0 t0 ps m t → Q a t → Reads w s0 t0 ps stop e L b (k a t) Q') :
    Reads w s0 t0 ps stop e L b (r.andThen k) Q' := by
  by_cases hstop : m ≤ stop
  · obtain ⟨a, t, rfl, ht, hQ⟩ := hr.on hstop
    exact hk a t hstop ht hQ
  · obtain ⟨t, rfl, ht⟩ := hr.off (by omega)
    exact ⟨fun h => absurd (hm.trans h) hstop, fun _ => ⟨t, rfl, ht⟩⟩

theorem Reads.mono {Q' : α → State → Prop} (hr : Reads w s0 t0 ps stop e L b r Q) (hQ : ∀ a t, Q a t → Q' a t) :
    Reads w s0 t0 ps stop e L b r Q' :=
  ⟨fun h => by obtain ⟨a, t, hr, ht, hq⟩ := hr.on h; exact ⟨a, t, hr, ht, hQ a t hq⟩, hr.off⟩

theorem Reads.pure {a : α} (hb : b ≤ stop) (h : AtPulse w s0 t0 ps b s) (hQ : Q a s) :
    Reads w s0 t0 ps stop e L b (.ok a s) Q :=
  ⟨fun _ => ⟨a, s, rfl, h, hQ⟩, fun h => absurd hb (Nat.not_le.mpr h)⟩

theorem Reads.atPos (hr : Reads w s0 t0 ps stop e L b r Q) (f : FieldPos) (i : BitVec 6) :
    Reads w s0 t0 ps stop { code := e.code, field := f, index := i } L b (r.atPos f i) Q := by
  constructor
  · intro h
    obtain ⟨a, t, rfl, ht⟩ := hr.on h
    exact ⟨a, t, rfl, ht⟩
  · intro h
    obtain ⟨t, rfl, ht⟩ := hr.off h
    exact ⟨t, rfl, ht⟩

/-- Which error it is matters only where the read ends. -/
theorem Reads.retag {e' : ResultReg} (hr : Reads w s0 t0 ps stop e L b r Q) (he : stop < b → e = e') :
    Reads w s0 t0 ps stop e' L b r Q := ⟨hr.on, fun h => he h ▸ hr.off h⟩

end

/-! ## Steps of the codec -/

/-- A read that waits for this pulse ends, as L says. -/
structure StopsAt (w : SentFrame) (s0 : State) (t0 : Nat) (ps : List (Nat × Nat)) (j : Nat) (L : State → Prop) :
    Prop where
  bit : j ∉ w.answered s0.cfg → ∀ s, AtPulse w s0 t0 ps j s → ∃ t, rxBit s = .err (raised .desync) t ∧ L t
  ack : j ∈ w.answered s0.cfg → ∀ s, AtPulse w s0 t0 ps j s → ∃ t, ackSend s = .err (raised .desync) t ∧ L t

theorem rxBit_reads (H : w.Heard s0 syms t0 ps K) (hwf : s0.cfg.wf = true) (h : AtPulse w s0 t0 ps b s) (h1 : 1 ≤ b)
    (hb : b ≤ K + 1) (hack : b ∉ w.answered s0.cfg) (hstop : K + 1 < b + 1 → StopsAt w s0 t0 ps (K + 1) L)
    {P : Bool → Prop}
    (hp : b ≤ K → ∃ d n, ps[b]? = some (d, n) ∧ d ≤ s0.cfg.tMaxBit ∧ P (decide (d < s0.cfg.tThreshold))) :
    Reads w s0 t0 ps (K + 1) (raised .desync) L (b + 1) (rxBit s) fun a t =>
      P a ∧ t.par = accumulate s.par a ∧ t.shift = s.shift ∧ t.wfr = s.wfr := by
  constructor
  · intro hle
    obtain ⟨d, n, hp, hd, hP⟩ := hp (by omega)
    obtain ⟨t, hr, ht, hread⟩ := rxBit_at_pulse H hwf h h1 (by omega) hp hack hd
    exact ⟨_, t, hr, ht, by rwa [h.cfg], hread⟩
  · intro hlt
    obtain rfl : b = K + 1 := by omega
    exact (hstop hlt).bit hack s h

/-- The bits of a field go into SHIFT and PAR (R114). -/
theorem rxBits_reads (H : w.Heard s0 syms t0 ps K) (hwf : s0.cfg.wf = true) (bits : List Bool)
    (h : AtPulse w s0 t0 ps b s) (h1 : 1 ≤ b) (hb : b ≤ K + 1)
    (hstop : K + 1 < b + bits.length → StopsAt w s0 t0 ps (K + 1) L)
    (hbits : ∀ m v, bits[m]? = some v → syms[b + m]? = some (.ofBit v) ∧ b + m ∉ w.slots) :
    Reads w s0 t0 ps (K + 1) (raised .desync) L (b + bits.length) (rxBits bits.length s) fun _ t =>
      t.shift = shiftIn s.shift bits ∧ t.par = bits.foldl accumulate s.par ∧ t.wfr = s.wfr := by
  induction bits generalizing b s with
  | nil => exact Reads.pure hb h ⟨rfl, rfl, rfl⟩
  | cons v bits ih =>
    obtain ⟨hx, hslot⟩ := hbits 0 v rfl
    rw [List.length_cons] at hstop ⊢
    refine Reads.andThen (rxBit_reads (P := (· = v)) H hwf h h1 hb (fun hm => hslot (SentFrame.answered_sub hm))
      (fun hlt => hstop (by omega)) fun _ => H.bit_pulse hwf hx hslot) (by omega) ?_
    rintro _ t hle ht ⟨rfl, hpar, hshift, hwfr⟩
    rw [show b + (bits.length + 1) = b + 1 + bits.length by omega] at hstop ⊢
    refine (ih (ht.of_eq) (by omega) hle hstop fun m v hv => ?_).mono fun _ u ⟨hs, hp, hw⟩ => ⟨?_, ?_, hw.trans hwfr⟩
    · rw [show b + 1 + m = b + (m + 1) by omega]
      exact hbits (m + 1) v hv
    · rw [hs, hshift]
      rfl
    · rw [hp, hpar]
      rfl

/-- The symbols of a field are heard as they were sent. -/
def HeardField (w : SentFrame) (c : Config) (syms : List Symbol) (b n : Nat) : Prop :=
  ∀ m, m < n → syms[b + m]? = (w.symbols c)[b + m]?

theorem rxField_reads (H : w.Heard s0 syms t0 ps K) (hwf : s0.cfg.wf = true) (hf : FieldAt w b n v pos i)
    (hsyms : HeardField w s0.cfg syms b n) (h : AtPulse w s0 t0 ps b s) (hb : b ≤ K + 1)
    (hstop : K + 1 < b + n → StopsAt w s0 t0 ps (K + 1) L) :
    Reads w s0 t0 ps (K + 1) (raised .desync) L (b + n) (rxField n s) fun a t =>
      a = v ∧ t.par = (s.par ^^ parity n v) ∧ t.wfr = s.wfr := by
  obtain ⟨h1, hn, hv⟩ := hf.width
  have hlen : (bitsMsb n v).length = n := bitsMsb_length n v
  have hbits := rxBits_reads (L := L) (s := { s with shift := 0#12, bitcnt := BitVec.ofNat 4 n }) H hwf (bitsMsb n v)
    h.of_eq h1 hb (by rwa [hlen]) fun m b' hm => ?_
  · rw [hlen] at hbits
    refine hbits.andThen le_rfl fun _ t hle ht ⟨hshift, hpar, hwfr⟩ => Reads.pure hle ht ⟨?_, ?_, hwfr⟩
    · rw [hshift, shiftIn_bitsMsb hn hv]
    · rw [hpar, foldl_accumulate_bitsMsb]
  · have hmn : m < n := by
      rw [← hlen]
      exact (List.getElem?_eq_some_iff.mp hm).1
    refine ⟨?_, hf.not_slot (Nat.le_add_right b m) (by omega)⟩
    rw [hsyms m hmn, hf.symbol _ hmn.le, List.getElem?_append_left (by omega), hm]
    rfl

/-- RX_BIT at the parity bit of a field (R84). -/
theorem rxParity_reads (H : w.Heard s0 syms t0 ps K) (hwf : s0.cfg.wf = true) (hf : FieldAt w b n v pos i)
    {p : Bool} (hx : syms[b + n]? = some (.ofBit p)) (h : AtPulse w s0 t0 ps (b + n) s) (hb : b + n ≤ K + 1)
    (hstop : K + 1 < b + n + 1 → StopsAt w s0 t0 ps (K + 1) L) :
    Reads w s0 t0 ps (K + 1) (raised .desync) L (b + n + 1) (rxBit s) fun a t => a = p ∧ t.wfr = s.wfr := by
  obtain ⟨h1, -⟩ := hf.width
  have hslot : b + n ∉ w.slots := hf.not_slot (Nat.le_add_right b n) le_rfl
  exact (rxBit_reads (P := (· = p)) H hwf h (by omega) hb (fun hm => hslot (SentFrame.answered_sub hm)) hstop
    fun _ => H.bit_pulse hwf hx hslot).mono fun a t ⟨ha, _, _, hw⟩ => ⟨ha, hw⟩

/-- `RxGroup` on a field that is heard as it was sent (R148). -/
theorem rxGroup_reads (H : w.Heard s0 syms t0 ps K) (hwf : s0.cfg.wf = true) (hf : FieldAt w b n v pos i)
    (hsyms : HeardField w s0.cfg syms b (n + 1)) (h : AtPulse w s0 t0 ps b s) (hb : b ≤ K + 1)
    (hstop : K + 1 < b + n + 1 → StopsAt w s0 t0 ps (K + 1) L) :
    Reads w s0 t0 ps (K + 1) { code := .desync, field := pos, index := i } L (b + n + 1) (rxGroup n pos i s)
      fun a t => a = v ∧ t.wfr = s.wfr := by
  have hfield := rxField_reads (s := { readAt pos s with par := false }) H hwf hf (fun m hm => hsyms m (by omega))
    h.of_eq hb (fun hlt => hstop (by omega))
  refine (hfield.atPos pos i).andThen (Nat.le_succ _) fun a t hle ht ⟨ha, hpar, hwfr⟩ => ?_
  have hx := (hsyms n (Nat.lt_succ_self n)).trans (hf.symbol_parity s0.cfg)
  refine ((rxParity_reads H hwf hf hx ht hle hstop).atPos pos i).andThen le_rfl fun p u hle hu ⟨hp, hw⟩ => ?_
  have hmatch : p = t.par := by rw [hp, hpar]; simp
  rw [if_pos hmatch]
  exact Reads.pure hle hu ⟨ha, hw.trans hwfr⟩

/-- `RxGroup` on a field whose parity bit is inverted (R148). -/
theorem rxGroup_wrongParity (H : w.Heard s0 syms t0 ps (b + n)) (hwf : s0.cfg.wf = true) (hf : FieldAt w b n v pos i)
    (hsyms : HeardField w s0.cfg syms b n) (hx : syms[b + n]? = some (.ofBit !parity n v))
    (h : AtPulse w s0 t0 ps b s) :
    ∃ t, rxGroup n pos i s = .err { code := .parity, field := pos, index := i } t ∧ AtPulse w s0 t0 ps (b + n + 1) t := by
  have hfield := rxField_reads (s := { readAt pos s with par := false }) (L := fun _ => True) H hwf hf hsyms h.of_eq
    (by omega) (fun hlt => absurd hlt (by omega))
  obtain ⟨a, t, hr, ht, -, hpar, -⟩ := hfield.on (by omega)
  obtain ⟨p, u, hr', hu, hp, -⟩ := (rxParity_reads (L := fun _ => True) H hwf hf hx ht (by omega)
    (fun hlt => absurd hlt (by omega))).on le_rfl
  refine ⟨u, ?_, hu⟩
  have hmatch : p ≠ t.par := by rw [hp, hpar]; simp
  rw [rxGroup, hr, Res.atPos, Res.andThen_ok, hr', Res.atPos, Res.andThen_ok, if_neg hmatch]

/-- `RxAck` in a slot (R149). -/
theorem rxAck_reads (H : w.Heard s0 syms t0 ps K) (hwf : s0.cfg.wf = true) (hlen : ps.length = (w.symbols s0.cfg).length)
    {k : Nat} (hk : SlotAt w k pos i) (hu : w.unicast = true) (h : AtPulse w s0 t0 ps k s) (hb : k ≤ K + 1)
    (hstop : K + 1 < k + 1 → StopsAt w s0 t0 ps (K + 1) L) :
    Reads w s0 t0 ps (K + 1) { code := .desync, field := pos, index := i } L (k + 1)
      (rxAck true (decide (w.receiver = s0.cfg.myAddr)) pos i s) fun _ t => t.wfr = s.wfr := by
  have hslot : k ∈ w.slots := hk.mem_slots hu
  have hj : k < ps.length := by rw [hlen, SentFrame.symbols_length]; exact lt_dataStart_of_mem_slots hslot
  have h' : AtPulse w s0 t0 ps k (readAt pos s) := h.of_eq
  rw [rxAck, if_pos rfl]
  by_cases hrec : w.receiver = s0.cfg.myAddr
  · have hack : k ∈ w.answered s0.cfg := SentFrame.mem_answered.mpr ⟨hu, hrec, hslot⟩
    rw [if_pos (decide_eq_true hrec)]
    refine Reads.atPos (e := raised .desync) ⟨fun hle => ?_, fun hlt => ?_⟩ pos i
    · obtain ⟨t, ht⟩ := ackSend_at_pulse H h' (by omega) hj hack
      exact ⟨(), t, ht⟩
    · obtain rfl : k = K + 1 := by omega
      exact (hstop hlt).ack hack _ h'
  · have hack : k ∉ w.answered s0.cfg := fun hm => hrec (SentFrame.mem_answered.mp hm).2.1
    rw [if_neg (by simpa using hrec)]
    have hbit := rxBit_reads (P := fun _ => True) H hwf h' (by have := two_le_of_mem_slots hslot; omega) hb hack hstop
      fun _ => by
        obtain ⟨d, n, hp, hd⟩ := H.slot_pulse hj hslot hack
        exact ⟨d, n, hp, hd, trivial⟩
    exact (hbit.atPos pos i).andThen le_rfl fun _ t hle ht ⟨_, _, _, hw⟩ => Reads.pure hle ht hw

end

end Sys2Proof.Machine
end

section
/-! SUPPORT. READ_FRAME on a frame, step by step (R150): the two ways in which a frame is heard, and what the read makes of
its head and of its data groups. -/

namespace Sys2Proof.Machine

section

variable {w : SentFrame} {s0 : State} {t0 K : Nat} {ps : List (Nat × Nat)} {last stop : Nat} {e : ResultReg}
  {L : Option ResultReg → State → Prop} {M : State → Prop} {s : State} {pos : FieldPos} {i : BitVec 6}

/-! ## Past the symbol up to which the pulses are known -/

/-- A read that has heard the pulses before symbol b, where the pulses are known up to symbol `stop`; past it, all that is
known is that L holds, of no error so far. -/
structure Stands (w : SentFrame) (s0 : State) (t0 : Nat) (ps : List (Nat × Nat)) (stop : Nat)
    (L : Option ResultReg → State → Prop) (b : Nat) (s : State) : Prop where
  within : b ≤ stop → AtPulse w s0 t0 ps b s
  past : stop < b → L none s

/-- A part of a read goes on to symbol b, or ends past symbol `stop` in an error as L says. -/
def Follows (w : SentFrame) (s0 : State) (t0 : Nat) (ps : List (Nat × Nat)) (stop : Nat)
    (L : Option ResultReg → State → Prop) {α : Type} (b : Nat) (r : Res α) (Q : α → State → Prop) : Prop :=
  match r with
  | .ok a t => Stands w s0 t0 ps stop L b t ∧ (b ≤ stop → Q a t)
  | .err e t => stop < b ∧ L (some e) t

/-- What a read keeps wherever it is: its receive steps and its notes keep it, and any error may end it. -/
structure Lasts (L : Option ResultReg → State → Prop) : Prop where
  notes : ∀ {s s' : State}, L none s → s'.cfg = s.cfg → s'.env = s.env → s'.drv = s.drv → s'.now = s.now →
    s'.drvLog = s.drvLog → ∀ x, L x s'
  bit : ∀ s, L none s → (rxBit s).Ends fun t => ∀ x, L x t
  ack : ∀ s, L none s → (ackSend s).Ends fun t => ∀ x, L x t

section

variable {α β : Type} {b m : Nat} {r : Res α} {Q : α → State → Prop}

theorem Follows.andThen {k : α → State → Res β} {Q' : β → State → Prop} (hr : Follows w s0 t0 ps stop L m r Q)
    (hm : m ≤ b)
    (hk : ∀ a t, Stands w s0 t0 ps stop L m t → (m ≤ stop → Q a t) → Follows w s0 t0 ps stop L b (k a t) Q') :
    Follows w s0 t0 ps stop L b (r.andThen k) Q' := by
  cases r with
  | ok a t => exact hk a t hr.1 hr.2
  | err e t => exact ⟨hr.1.trans_le hm, hr.2⟩

theorem Follows.mono {Q' : α → State → Prop} (hr : Follows w s0 t0 ps stop L b r Q)
    (hQ : b ≤ stop → ∀ a t, Q a t → Q' a t) : Follows w s0 t0 ps stop L b r Q' := by
  cases r with
  | ok a t => exact ⟨hr.1, fun hb => hQ hb a t (hr.2 hb)⟩
  | err e t => exact hr

/-- A part of a read that is over before the pulses cease to be known. -/
theorem Follows.reached (hr : Follows w s0 t0 ps stop L b r Q) (hb : b ≤ stop) :
    ∃ a t, r = .ok a t ∧ AtPulse w s0 t0 ps b t ∧ Q a t := by
  cases r with
  | ok a t => exact ⟨a, t, rfl, hr.1.within hb, hr.2 hb⟩
  | err e t => exact absurd hb (Nat.not_le.mpr hr.1)

/-- A read that goes past the symbol where its error is certain. -/
theorem Follows.failed (hr : Follows w s0 t0 ps stop (fun x t => x = some e ∧ M t) b r Q) (hb : stop < b) :
    ∃ t, r = .err e t ∧ M t := by
  cases r with
  | ok a t => exact nomatch (hr.1.past hb).1
  | err e' t =>
    obtain ⟨-, he, ht⟩ := hr
    exact ⟨t, by rw [Option.some.inj he], ht⟩

theorem Reads.follows (hr : Reads w s0 t0 ps stop e M b r Q) :
    Follows w s0 t0 ps stop (fun x t => x = some e ∧ M t) b r Q := by
  by_cases hb : b ≤ stop
  · obtain ⟨a, t, rfl, ht, hQ⟩ := hr.on hb
    exact ⟨⟨fun _ => ht, fun hlt => absurd hb (Nat.not_le.mpr hlt)⟩, fun _ => hQ⟩
  · obtain ⟨t, rfl, ht⟩ := hr.off (Nat.lt_of_not_le hb)
    exact ⟨Nat.lt_of_not_le hb, rfl, ht⟩

/-- A part of a read that is over where the pulses are still known. -/
theorem Follows.of_reads {stop' : Nat} (hr : Reads w s0 t0 ps stop' e M b r Q) (hb' : b ≤ stop') (hb : b ≤ stop) :
    Follows w s0 t0 ps stop L b r Q := by
  obtain ⟨a, t, rfl, ht, hQ⟩ := hr.on hb'
  exact ⟨⟨fun _ => ht, fun hlt => absurd hb (Nat.not_le.mpr hlt)⟩, fun _ => hQ⟩

theorem Follows.of_ends (hb : stop < b) (hr : r.Ends fun t => ∀ x, L x t) : Follows w s0 t0 ps stop L b r Q := by
  cases r with
  | ok a t => exact ⟨⟨fun h => absurd h (Nat.not_le.mpr hb), fun _ => hr none⟩, fun h => absurd h (Nat.not_le.mpr hb)⟩
  | err e t => exact ⟨hb, hr (some e)⟩

theorem AtPulse.stands (h : AtPulse w s0 t0 ps b s) (hb : b ≤ stop) : Stands w s0 t0 ps stop L b s :=
  ⟨fun _ => h, fun hlt => absurd hb (Nat.not_le.mpr hlt)⟩

theorem Stands.of_eq (h : Stands w s0 t0 ps stop L b s) (hL : Lasts L) {s' : State} (hcfg : s'.cfg = s.cfg := by rfl)
    (henv : s'.env = s.env := by rfl) (hdrv : s'.drv = s.drv := by rfl) (hnow : s'.now = s.now := by rfl)
    (hlog : s'.drvLog = s.drvLog := by rfl) : Stands w s0 t0 ps stop L b s' :=
  ⟨fun hb => (h.within hb).of_eq hcfg henv hdrv hnow hlog, fun hb => hL.notes (h.past hb) hcfg henv hdrv hnow hlog none⟩

theorem Res.Ends.chain {P : State → Prop} {k : α → State → Res β} (hr : r.Ends P)
    (hk : ∀ a t, P t → (k a t).Ends P) : (r.andThen k).Ends P := by
  cases r with
  | ok a t => exact hk a t hr
  | err e t => exact hr

/-- What an error keeps wherever it comes from: past the stop there is no state without the error. -/
theorem lasts_of_error : Lasts fun x t => x = some e ∧ M t where
  notes h := nomatch h.1
  bit _ h := nomatch h.1
  ack _ h := nomatch h.1

theorem Lasts.noted (hL : Lasts L) (h : L none s) {s' : State} (hcfg : s'.cfg = s.cfg := by rfl)
    (henv : s'.env = s.env := by rfl) (hdrv : s'.drv = s.drv := by rfl) (hnow : s'.now = s.now := by rfl)
    (hlog : s'.drvLog = s.drvLog := by rfl) (x : Option ResultReg := none) : L x s' :=
  hL.notes h hcfg henv hdrv hnow hlog x

theorem Lasts.rxBits (hL : Lasts L) (k : Nat) (h : L none s) : (rxBits k s).Ends fun t => ∀ x, L x t := by
  induction k generalizing s with
  | zero => exact fun x => hL.noted h (x := x)
  | succ k ih => exact (hL.bit s h).chain fun b t ht => ih (hL.noted (ht none))

theorem Lasts.rxGroup (hL : Lasts L) (n : Nat) (f : FieldPos) (i : BitVec 6) (h : L none s) :
    (rxGroup n f i s).Ends fun t => ∀ x, L x t := by
  have hfield : (rxField n { readAt f s with par := false }).Ends fun t => ∀ x, L x t :=
    (hL.rxBits n (hL.noted h)).chain fun _ _ ht => by exact ht
  refine hfield.atPos.chain fun v t ht => (hL.bit t (ht none)).atPos.chain fun p u hu => ?_
  split
  · exact hu
  · exact hu

theorem Lasts.rxAck (hL : Lasts L) (u forme : Bool) (f : FieldPos) (i : BitVec 6) (h : L none s) :
    (rxAck u forme f i s).Ends fun t => ∀ x, L x t := by
  have hat : L none (readAt f s) := hL.noted h
  cases u with
  | false => exact fun x => hL.noted h (x := x)
  | true =>
    cases forme with
    | true => exact (hL.ack _ hat).atPos
    | false => exact (hL.bit _ hat).atPos.chain fun _ _ ht => by exact ht

theorem Lasts.rxPayload (hL : Lasts L) (u forme : Bool) (k m : Nat) (h : L none s) :
    (rxPayload u forme k m s).Ends fun t => ∀ x, L x t := by
  induction k generalizing m s with
  | zero => exact fun x => hL.noted h (x := x)
  | succ k ih =>
    exact (hL.rxGroup 8 .data _ (hL.noted h)).chain fun v t ht =>
      (hL.rxAck u forme .dataAck _ (hL.noted (ht none))).chain fun _ t ht => ih (m + 1) (ht none)

end

/-- What the parts of a read make of the symbols before symbol `last` of a frame, when the pulses are known up to symbol
`stop`: they go on with what was sent, and past that symbol L lasts. -/
structure Reception (w : SentFrame) (s0 : State) (t0 : Nat) (ps : List (Nat × Nat)) (last stop : Nat)
    (L : Option ResultReg → State → Prop) : Prop where
  lasts : Lasts L
  start : ∀ s, AtPulse w s0 t0 ps 0 s →
    Follows w s0 t0 ps stop L 1 ((rxStart s).atPos .start 0#6) fun _ _ => True
  mode : ∀ s, 1 ≤ stop → AtPulse w s0 t0 ps 1 s →
    Follows w s0 t0 ps stop L 2 ((rxBit s).atPos .mode 0#6) fun m _ => decide (m = s0.cfg.modeBitUnicast) = w.unicast
  field : ∀ {b n v pos i} s, FieldAt w b n v pos i → b + n + 1 ≤ last → b ≤ stop → AtPulse w s0 t0 ps b s →
    Follows w s0 t0 ps stop L (b + n + 1) (rxGroup n pos i s) fun a t => a = v ∧ t.wfr = s.wfr
  slot : ∀ {k pos i} s, SlotAt w k pos i → w.unicast = true → k < last → k ≤ stop → AtPulse w s0 t0 ps k s →
    Follows w s0 t0 ps stop L (k + 1) (rxAck true (decide (w.receiver = s0.cfg.myAddr)) pos i s)
      fun _ t => t.wfr = s.wfr

/-! ## The two ways -/

theorem modeBit_unicast (c : Config) (u : Bool) : decide (c.modeBit u = c.modeBitUnicast) = u := by
  cases u <;> simp [Config.modeBit]

theorem SentFrame.symbols_mode (w : SentFrame) (c : Config) :
    (w.symbols c)[1]? = some (.ofBit (c.modeBit w.unicast)) := rfl

/-- The places of a frame begin with the start bit and the mode bit. -/
theorem symbolPlaces_mode : (symbolPlaces w.unicast w.data.length)[1]? = some (.mode, 0#6) := rfl

theorem SentFrame.two_le_symbols (w : SentFrame) (c : Config) : 2 ≤ (w.symbols c).length := by
  rw [SentFrame.symbols_length, SentFrame.dataStart]
  omega

/-- The start bit of a frame (R81, R274). -/
theorem rxStart_reads {syms : List Symbol} (H : w.Heard s0 syms t0 ps K) (hwf : s0.cfg.wf = true)
    (hlen : 0 < ps.length) (h : AtPulse w s0 t0 ps 0 s) (hstop : 1 ≤ stop) :
    Reads w s0 t0 ps stop e M 1 ((rxStart s).atPos .start 0#6) fun _ _ => True := by
  obtain ⟨t, ht, hat⟩ := rxStart_at_pulse H hwf h hlen
  rw [ht]
  exact Reads.pure hstop hat trivial

/-- The mode bit of a frame (R87). -/
theorem rxMode_reads {syms : List Symbol} (H : w.Heard s0 syms t0 ps K) (hwf : s0.cfg.wf = true)
    (hx : syms[1]? = some (.ofBit (s0.cfg.modeBit w.unicast))) (h : AtPulse w s0 t0 ps 1 s)
    (hstop : K + 1 < 2 → StopsAt w s0 t0 ps (K + 1) M) :
    Reads w s0 t0 ps (K + 1) { code := .desync, field := .mode, index := 0#6 } M 2 ((rxBit s).atPos .mode 0#6)
      fun m _ => decide (m = s0.cfg.modeBitUnicast) = w.unicast := by
  have hslot : 1 ∉ w.slots := fun hm => absurd (two_le_of_mem_slots hm) (by decide)
  refine ((rxBit_reads (P := (· = s0.cfg.modeBit w.unicast)) H hwf h le_rfl (by omega)
    (fun hm => hslot (SentFrame.answered_sub hm)) hstop fun _ => H.bit_pulse hwf hx hslot).atPos .mode 0#6).mono ?_
  rintro m t ⟨rfl, -⟩
  exact modeBit_unicast _ _

/-- A frame that is heard as it was sent, up to a symbol at which the read loses the line. -/
theorem SentFrame.Heard.lost (H : w.Heard s0 (w.symbols s0.cfg) t0 ps K) (hwf : s0.cfg.wf = true) (hlast : 2 ≤ last)
    (hstop : K + 1 < last →
      StopsAt w s0 t0 ps (K + 1) M ∧ (symbolPlaces w.unicast w.data.length)[K + 1]? = some (pos, i)) :
    Reception w s0 t0 ps last (K + 1)
      fun x t => x = some { code := .desync, field := pos, index := i } ∧ M t := by
  have hlen : ps.length = (w.symbols s0.cfg).length := H.fits.1
  have hplace {j : Nat} {p : FieldPos} {q : BitVec 6} (hj : (symbolPlaces w.unicast w.data.length)[j]? = some (p, q))
      (hjK : j = K + 1) (hlt : K + 1 < last) :
      ({ code := .desync, field := p, index := q } : ResultReg) = { code := .desync, field := pos, index := i } := by
    rw [hjK, (hstop hlt).2] at hj
    cases hj
    rfl
  constructor
  case lasts => exact lasts_of_error
  case start =>
    intro s h
    exact (rxStart_reads H hwf (by have := w.two_le_symbols s0.cfg; omega) h (by omega)).follows
  case mode =>
    intro s _ h
    exact Reads.follows <| (rxMode_reads H hwf (w.symbols_mode _) h (fun hlt => (hstop (by omega)).1)).retag
      fun hlt => hplace symbolPlaces_mode (by omega) (by omega)
  case field =>
    intro b n v p q s hf hb hle h
    exact Reads.follows <| (rxGroup_reads H hwf hf (fun m _ => rfl) h hle (fun hlt => (hstop (by omega)).1)).retag
      fun hlt => hplace (hf.place hle (by omega)) rfl (by omega)
  case slot =>
    intro k p q s hk hu hb hle h
    exact Reads.follows <| (rxAck_reads H hwf hlen hk hu h hle (fun hlt => (hstop (by omega)).1)).retag
      fun hlt => hplace (hk.place hu) (by omega) (by omega)

theorem flipSymbol_ofBit (b : Bool) : flipSymbol (.ofBit b) = .ofBit !b := by cases b <;> rfl

/-- A frame with the parity bit of a field inverted, at symbol k: the read ends behind it. -/
theorem SentFrame.Heard.flipped {b n k : Nat} {v : BitVec 12} (hf : FieldAt w b n v pos i) (hk : b + n = k)
    (H : w.Heard s0 ((w.symbols s0.cfg).modify k flipSymbol) t0 ps k) (hwf : s0.cfg.wf = true) :
    Reception w s0 t0 ps last k
      fun x t => x = some { code := .parity, field := pos, index := i } ∧ AtPulse w s0 t0 ps (k + 1) t := by
  have hlen : ps.length = (w.symbols s0.cfg).length := H.fits.1.trans (List.length_modify _ _ _)
  have h2 : 2 ≤ k := by
    obtain ⟨q, ⟨-, hnum⟩ | ⟨-, hnum⟩⟩ := hf.numbers <;> omega
  have hno (m : Nat) (hm : m ≤ k) : k + 1 < m → StopsAt w s0 t0 ps (k + 1) fun _ => True := fun hlt => by omega
  constructor
  case lasts => exact lasts_of_error
  case start =>
    intro s h
    exact (rxStart_reads H hwf (by have := w.two_le_symbols s0.cfg; omega) h (by omega)).follows
  case mode =>
    intro s _ h
    exact Follows.of_reads (rxMode_reads H hwf ((List.getElem?_modify_ne _ _ (by omega)).trans (w.symbols_mode _)) h
      (hno 2 h2)) (by omega) h2
  case field =>
    intro b' n' v' p q s hf' _ hle h
    by_cases hlt : b' + n' < k
    · exact Follows.of_reads (rxGroup_reads H hwf hf' (fun m hm => List.getElem?_modify_ne _ _ (by omega)) h (by omega)
        (hno _ hlt)) (by omega) hlt
    · obtain rfl : b' + n' = k := by rw [← hk]; exact (hf'.parity_last hf (by omega) (by omega)).symm
      obtain ⟨rfl, rfl⟩ : p = pos ∧ q = i := by
        have hplace := hf'.place (Nat.le_add_right b' n') le_rfl
        rw [← hk, hf.place (Nat.le_add_right b n) le_rfl] at hplace
        simpa [eq_comm] using hplace
      refine Reads.follows ⟨fun hb => by omega, fun _ => ?_⟩
      refine rxGroup_wrongParity H hwf hf' (fun m hm => List.getElem?_modify_ne _ _ (by omega)) ?_ h
      rw [List.getElem?_modify_eq, hf'.symbol_parity, Option.map_eq_map, Option.map_some, flipSymbol_ofBit]
  case slot =>
    intro k' p q s hk' hu _ hle h
    have hlt : k' < k := by
      refine Nat.lt_of_le_of_ne hle fun hkk => hf.not_slot (Nat.le_add_right b n) le_rfl ?_
      rw [hk, ← hkk]
      exact hk'.mem_slots hu
    exact Follows.of_reads (rxAck_reads H hwf hlen hk' hu h (by omega) (hno _ hlt)) (by omega) hlt

/-- `RxGroup` as the read calls it. -/
theorem Reception.group (R : Reception w s0 t0 ps last stop L) {b n : Nat} {v : BitVec 12} (hf : FieldAt w b n v pos i)
    (hlast : b + n + 1 ≤ last) (h : Stands w s0 t0 ps stop L b s) :
    Follows w s0 t0 ps stop L (b + n + 1) (rxGroup n pos i s) fun a t => a = v ∧ t.wfr = s.wfr := by
  by_cases hb : b ≤ stop
  · exact R.field s hf hlast hb (h.within hb)
  · exact Follows.of_ends (by omega) (R.lasts.rxGroup n pos i (h.past (by omega)))

/-- `RxAck` in a frame of either mode: in a broadcast frame it does nothing (R82). -/
theorem Reception.slotOrNone (R : Reception w s0 t0 ps last stop L) {k : Nat}
    (hk : w.unicast = true → SlotAt w k pos i) (hlast : k + w.unicast.toNat ≤ last)
    (h : Stands w s0 t0 ps stop L k s) {u forme : Bool} (hu : k ≤ stop → u = w.unicast)
    (hme : k ≤ stop → forme = (w.unicast && decide (w.receiver = s0.cfg.myAddr))) :
    Follows w s0 t0 ps stop L (k + w.unicast.toNat) (rxAck u forme pos i s) fun _ t => t.wfr = s.wfr := by
  by_cases hb : k ≤ stop
  · rw [hme hb, hu hb]
    cases hw : w.unicast with
    | false => exact ⟨h, fun _ => rfl⟩
    | true => exact R.slot s (hk hw) hw (by rw [hw, Bool.toNat_true] at hlast; omega) hb (h.within hb)
  · exact Follows.of_ends (by omega) (R.lasts.rxAck u forme pos i (h.past (by omega)))

theorem Stands.forMe {b : Nat} (h : Stands w s0 t0 ps stop L b s) (hb : b ≤ stop)
    (hu : s.wfr.frame.unicast = w.unicast) (hr : s.wfr.frame.receiver = w.receiver) :
    forMe s = (w.unicast && decide (w.receiver = s0.cfg.myAddr)) := by
  rw [Machine.forMe, hu, hr, (h.within hb).cfg]

/-- `RxAck` as the read calls it. -/
theorem Reception.ack (R : Reception w s0 t0 ps last stop L) {k : Nat} (hk : w.unicast = true → SlotAt w k pos i)
    (hlast : k + w.unicast.toNat ≤ last) (h : Stands w s0 t0 ps stop L k s)
    (hhead : k ≤ stop → s.wfr.frame.unicast = w.unicast ∧ s.wfr.frame.receiver = w.receiver) :
    Follows w s0 t0 ps stop L (k + w.unicast.toNat) (rxAck s.wfr.frame.unicast (forMe s) pos i s)
      fun _ t => t.wfr = s.wfr :=
  R.slotOrNone hk hlast h (fun hb => (hhead hb).1) fun hb => h.forMe hb (hhead hb).1 (hhead hb).2

/-! ## The head -/

/-- What follows the step that follows a step. -/
theorem Res.andThen_assoc {α β γ : Type} (r : Res α) (k : α → State → Res β) (k' : β → State → Res γ) :
    (r.andThen k).andThen k' = r.andThen fun a s => (k a s).andThen k' := by cases r <;> rfl

/-- READ_FRAME up to the check of the length field (R150, R152). The value is the length field. -/
def readHead (s : State) : Res (BitVec 12) :=
  ((rxStart (readAt .start s)).atPos .start 0#6).andThen fun _ s =>
  ((rxBit (readAt .mode s)).atPos .mode 0#6).andThen fun m s =>
  let s := setWork { s.wfr.frame with unicast := decide (m = s.cfg.modeBitUnicast) } s
  (rxGroup 12 .sender 0#6 s).andThen fun v s =>
  let s := setWork { s.wfr.frame with sender := v } s
  (rxGroup 12 .receiver 0#6 s).andThen fun v s =>
  let s := setWork { s.wfr.frame with receiver := v } s
  (rxAck s.wfr.frame.unicast (forMe s) .addrAck 0#6 s).andThen fun _ s =>
  (rxGroup 4 .control 0#6 s).andThen fun v s =>
  let s := setWork { s.wfr.frame with control := v.setWidth 4 } s
  (rxAck s.wfr.frame.unicast (forMe s) .controlAck 0#6 s).andThen fun _ s =>
  rxGroup 8 .length 0#6 s

/-- READ_FRAME from the check of the length field on (R150, R153). -/
def readBody (v : BitVec 12) (s : State) : Res Nat :=
  if lengthLegal v.toNat then
    let s := setWork { s.wfr.frame with length := v.setWidth 6 } s
    (rxAck s.wfr.frame.unicast (forMe s) .lengthAck 0#6 s).andThen fun _ s =>
    (rxPayload s.wfr.frame.unicast (forMe s) v.toNat 0 s).andThen fun _ s => .ok v.toNat s
  else .err { code := .length, field := .length, index := 0#6 } s

theorem rxFrame_eq (s : State) : rxFrame s = (readHead s).andThen readBody := by
  simp only [readHead, Res.andThen_assoc]
  rfl

/-- The WF of a read holds the head of the frame, before its length. -/
structure SentFrame.HeadIn (w : SentFrame) (f : Frame) : Prop where
  unicast : f.unicast = w.unicast
  sender : f.sender = w.sender
  receiver : f.receiver = w.receiver
  control : f.control = w.control

theorem Reception.readHead (R : Reception w s0 t0 ps last stop L) (hlast : 42 + 2 * w.unicast.toNat ≤ last)
    (h : AtPulse w s0 t0 ps 0 s) :
    Follows w s0 t0 ps stop L (42 + 2 * w.unicast.toNat) (readHead s) fun v t =>
      v = w.length.setWidth 12 ∧ w.HeadIn t.wfr.frame := by
  refine (R.start (readAt .start s) h.of_eq).andThen (by omega) fun _ t ht _ => ?_
  have hmode : Follows w s0 t0 ps stop L 2 ((rxBit (readAt .mode t)).atPos .mode 0#6)
      fun m _ => decide (m = s0.cfg.modeBitUnicast) = w.unicast := by
    by_cases hb : 1 ≤ stop
    · exact R.mode _ hb (ht.within hb).of_eq
    · exact Follows.of_ends (by omega) (R.lasts.bit _ ((ht.of_eq R.lasts).past (by omega))).atPos
  refine hmode.andThen (by omega) fun m s h hm => ?_
  replace hm : 2 ≤ stop → decide (m = s.cfg.modeBitUnicast) = w.unicast := fun hb => by
    rw [(h.within hb).cfg]
    exact hm hb
  -- each group goes into WF, which the slots leave alone
  refine (R.group .sender (by omega) (h.of_eq R.lasts)).andThen (by omega) fun v s h hv => ?_
  have hhead : 15 ≤ stop → s.wfr.frame.unicast = w.unicast ∧ v = w.sender := fun hb => by
    obtain ⟨rfl, hw⟩ := hv hb
    rw [hw]
    exact ⟨hm (by omega), rfl⟩
  refine (R.group .receiver (by omega) (h.of_eq R.lasts)).andThen (by omega) fun v' s' h hv => ?_
  replace hhead : 28 ≤ stop → s'.wfr.frame.unicast = w.unicast ∧ s'.wfr.frame.sender = w.sender ∧ v' = w.receiver :=
    fun hb => by
      obtain ⟨rfl, hw⟩ := hv hb
      rw [hw]
      exact ⟨(hhead (by omega)).1, (hhead (by omega)).2, rfl⟩
  refine (R.ack (s := setWork { s'.wfr.frame with receiver := v' } s') (fun _ => .addr) (by omega) (h.of_eq R.lasts)
    fun hb => ⟨(hhead hb).1, (hhead hb).2.2⟩).andThen (by omega) fun _ s h hw => ?_
  replace hhead : 28 + w.unicast.toNat ≤ stop → s.wfr.frame.unicast = w.unicast ∧ s.wfr.frame.sender = w.sender ∧
      s.wfr.frame.receiver = w.receiver := fun hb => by
    rw [hw hb]
    exact hhead (by omega)
  refine (R.group .control (by omega) h).andThen (by omega) fun v s' h hv => ?_
  rw [show 28 + w.unicast.toNat + 4 + 1 = 33 + w.unicast.toNat by omega] at h hv
  replace hhead : 33 + w.unicast.toNat ≤ stop → w.HeadIn { s'.wfr.frame with control := v.setWidth 4 } := fun hb => by
    obtain ⟨rfl, hw⟩ := hv hb
    obtain ⟨hu, hs, hr⟩ := hhead (by omega)
    rw [← hw] at hu hs hr
    exact ⟨hu, hs, hr, by simp⟩
  refine (R.ack (s := setWork { s'.wfr.frame with control := v.setWidth 4 } s') (fun hu => by rw [hu]; exact .control)
    (by omega) (h.of_eq R.lasts) fun hb => ⟨(hhead hb).unicast, (hhead hb).receiver⟩).andThen (by omega) fun _ s h hw => ?_
  rw [show 33 + w.unicast.toNat + w.unicast.toNat = 33 + 2 * w.unicast.toNat by omega] at h hw
  refine (show 33 + 2 * w.unicast.toNat + 8 + 1 = 42 + 2 * w.unicast.toNat by omega) ▸
    (R.group .length (by omega) h).mono fun hb v t ⟨hv, hw'⟩ => ⟨hv, ?_⟩
  rw [hw', hw (by omega)]
  exact hhead (by omega)

/-! ## The data groups and the whole frame -/

/-- The data groups from group m on (R150). -/
theorem Reception.payload (R : Reception w s0 t0 ps (w.dataStart w.data.length) stop L) {forme : Bool}
    (hme : forme = (w.unicast && decide (w.receiver = s0.cfg.myAddr))) {ds : List Byte} {m k : Nat}
    (hds : w.data.drop m = ds) (hm : m + ds.length = w.data.length) (hk : ds.length ≤ k)
    (hall : ds.length = k ∨ stop < w.dataStart w.data.length) (hb : w.dataStart m ≤ stop)
    (h : Stands w s0 t0 ps stop L (w.dataStart m) s) :
    Follows w s0 t0 ps stop L (w.dataStart w.data.length) (rxPayload w.unicast forme k m s) fun _ t =>
      t.wfr.frame = { s.wfr.frame with pay := s.wfr.frame.pay.writeBytes m ds } := by
  induction ds generalizing m k s with
  | nil =>
    obtain rfl : m = w.data.length := by simpa using hm
    cases k with
    | zero => exact ⟨h, fun _ => rfl⟩
    | succ k => exact absurd hall (by simp; omega)
  | cons d ds ih =>
    obtain ⟨k, rfl⟩ : ∃ k', k = k' + 1 := ⟨k - 1, by rw [List.length_cons] at hk; omega⟩
    rw [List.length_cons] at hm hk hall
    have hd : w.data[m]? = some d := by rw [← List.head?_drop, hds, List.head?_cons]
    have hnext := w.dataStart_succ m
    have hend := w.dataStart_mono (show m + 1 ≤ w.data.length by omega)
    have hslot (hu : w.unicast = true) : SlotAt w (w.dataStart m + 9) .dataAck (BitVec.ofNat 6 m) := by
      rw [SentFrame.dataStart, hu, show 42 + 3 * true.toNat + (9 + true.toNat) * m + 9 = 54 + 10 * m by
        rw [Bool.toNat_true]; omega]
      exact .data (by omega)
    refine (R.group (.data hd) (by omega) (h.of_eq R.lasts)).andThen (by omega) fun v t ht hv => ?_
    rw [show w.dataStart m + 8 + 1 = w.dataStart m + 9 by omega] at ht hv
    refine (R.slotOrNone (s := setWork { t.wfr.frame with pay := t.wfr.frame.pay.write m (v.setWidth 8) } t) hslot
      (by omega) (ht.of_eq R.lasts) (fun _ => rfl) fun _ => hme).andThen (by omega) fun _ t' ht' hw' => ?_
    rw [← hnext] at ht' hw'
    by_cases hb' : w.dataStart (m + 1) ≤ stop
    · refine (ih (by rw [← List.drop_drop, hds]; rfl) (by omega) (by omega) (by omega) hb' ht').mono fun _ _ t'' hw'' => ?_
      obtain ⟨rfl, hw⟩ := hv (by omega)
      rw [hw'', hw' hb', show t.wfr = s.wfr from hw]
      simp [setWork, Memory.writeBytes]
    · exact Follows.of_ends (by omega) (R.lasts.rxPayload _ _ _ _ (ht'.past (by omega)))

/-- What WF holds of a frame that has been read. -/
structure SentFrame.WholeIn (w : SentFrame) (f : Frame) : Prop extends w.HeadIn f where
  length : f.length = w.length.setWidth 6
  pay : ∃ pay : Memory, f.pay = pay.writeBytes 0 w.data

theorem Lasts.readBody (hL : Lasts L) (v : BitVec 12) (h : L none s) : (readBody v s).Ends fun t => ∀ x, L x t := by
  rw [Machine.readBody]
  split
  · exact (hL.rxAck _ _ _ _ (hL.noted h)).chain fun _ t ht =>
      (hL.rxPayload _ _ _ _ (ht none)).chain fun _ t ht => by exact ht
  · exact fun x => hL.noted h (x := x)

theorem Reception.rxFrame (R : Reception w s0 t0 ps (w.dataStart w.data.length) stop L) (hann : w.Announced)
    (hall : (lengthLegal w.length.toNat = true ∧
      (w.data.length = w.length.toNat ∨ stop < w.dataStart w.data.length)) ∨ stop < 42 + 2 * w.unicast.toNat)
    (h : AtPulse w s0 t0 ps 0 s) :
    Follows w s0 t0 ps stop L (w.dataStart w.data.length) (rxFrame s) fun len t =>
      len = w.length.toNat ∧ w.WholeIn t.wfr.frame := by
  have hbody : 42 + 3 * w.unicast.toNat ≤ w.dataStart w.data.length := Nat.le_add_right _ _
  rw [rxFrame_eq]
  refine (R.readHead (by omega) h).andThen (by omega) fun v t ht hv => ?_
  by_cases hb : 42 + 2 * w.unicast.toNat ≤ stop
  case neg => exact Follows.of_ends (by omega) (R.lasts.readBody v (ht.past (by omega)))
  obtain ⟨rfl, hhead⟩ := hv hb
  have hlen : (w.length.setWidth 12).toNat = w.length.toNat := by simp; omega
  obtain ⟨hlegal, hall⟩ : lengthLegal w.length.toNat = true ∧
    (w.data.length = w.length.toNat ∨ stop < w.dataStart w.data.length) := hall.resolve_right (by omega)
  rw [SentFrame.Announced, if_pos hlegal] at hann
  rw [readBody, hlen, if_pos hlegal]
  refine (R.ack (s := setWork { t.wfr.frame with length := (w.length.setWidth 12).setWidth 6 } t)
    (fun hu => by rw [hu]; exact .length) (by omega) (ht.of_eq R.lasts)
    fun _ => ⟨hhead.unicast, hhead.receiver⟩).andThen (by omega) fun _ t' ht' hw => ?_
  rw [show 42 + 2 * w.unicast.toNat + w.unicast.toNat = w.dataStart 0 by rw [SentFrame.dataStart]; omega] at ht' hw
  by_cases hb' : w.dataStart 0 ≤ stop
  case neg =>
    exact Follows.of_ends (by have := w.dataStart_mono (Nat.zero_le w.data.length); omega)
      ((R.lasts.rxPayload _ _ _ _ (ht'.past (by omega))).chain fun _ t ht => by exact ht)
  have hhead' : w.HeadIn t'.wfr.frame := by
    rw [hw hb']
    exact ⟨hhead.unicast, hhead.sender, hhead.receiver, hhead.control⟩
  rw [hhead'.unicast]
  refine (R.payload (ht'.forMe hb' hhead'.unicast hhead'.receiver) (List.drop_zero) (Nat.zero_add _) hann hall hb'
    ht').andThen le_rfl fun _ t'' ht'' hw'' => ⟨ht'', fun hle => ⟨rfl, ?_⟩⟩
  rw [hw'' hle, hw hb']
  exact ⟨⟨hhead.unicast, hhead.sender, hhead.receiver, hhead.control⟩, by simp [setWork], _, rfl⟩

end

end Sys2Proof.Machine
end

section
/-! THEOREMS. READ_FRAME on what other agents send (R148 to R153): a whole frame, a frame with no start bit or with a symbol
lost, a wrong parity bit, an illegal length. -/

namespace Sys2Proof.Machine

/-! ## The end of a read -/

theorem readFrame_fails {s u : State} {e : ResultReg} (h : rxFrame (reading s) = .err e u) (he : e.code ≠ .ok) :
    ∃ t, exec .readFrame s = .next t ∧ FrameOpFrame s t ∧ t.rxf = { s.rxf with valid := false } ∧ t.result = e ∧
      t.diag = s.diag ++ [t.result] ∧ t.now = u.now ∧ t.drvLog = (u.now, false) :: u.drvLog := by
  have hadv : Advances (reading s) u := by
    have hends := Advances.rxFrame (reading s)
    rw [h] at hends
    exact hends
  refine ⟨_, exec_readFrame s, (readFrame_frameOp s).frame, ?_⟩
  rw [readFrame_failed h]
  simp only [exitFrame_rxf, exitFrame_result, exitFrame_diag, exitFrame_now, exitFrame_drvLog, if_neg he]
  exact ⟨hadv.rxf, trivial, by rw [hadv.diag]; rfl, trivial, trivial⟩

theorem rxFrame_noStart {s u : State} {c : ResCode} (h : rxStart (readAt .start s) = .err (raised c) u) :
    rxFrame s = .err { code := c, field := .start, index := 0#6 } u := by
  rw [rxFrame, h]
  rfl

section

variable {w : SentFrame} {s : State} {t0 K : Nat} {ps : List (Nat × Nat)} {j stop : Nat} {e : ResultReg}
  {M : State → Prop}

theorem atPulse_reading (hsafe : Safe s) : AtPulse w s t0 ps 0 (reading s) := (atPulse_zero hsafe).of_eq

/-- The core has stopped driving when it waits for a pulse, and at the end of the read too. -/
theorem AtPulse.drvAt_released {syms : List Symbol} {u : State} (h : AtPulse w s t0 ps j u)
    (H : w.Heard s syms t0 ps K) (hj : j ≤ ps.length) {n : Nat} (hn : u.now ≤ n) {m : Nat} (hm : s.now ≤ m) :
    drvAt ((n, false) :: u.drvLog) m =
      acksAt s.cfg t0 ps ((w.answered s.cfg).filter (fun k => decide (k < j))) m := by
  rw [drvAt]
  split
  next hle => exact (H.acks_over hj (h.now ▸ hn.trans hle)).symm
  next => exact h.log m hm

/-- A read that ends at a symbol of the frame. -/
theorem Reception.fails
    (R : Reception w s t0 ps (w.dataStart w.data.length) stop fun x t => x = some e ∧ M t) (hsafe : Safe s)
    (hann : w.Announced) (hstop : stop < w.dataStart w.data.length)
    (hlegal : lengthLegal w.length.toNat = true ∨ stop < 42 + 2 * w.unicast.toNat) (he : e.code ≠ .ok) :
    ∃ u t, M u ∧ exec .readFrame s = .next t ∧ FrameOpFrame s t ∧ t.rxf = { s.rxf with valid := false } ∧
      t.result = e ∧ t.diag = s.diag ++ [t.result] ∧ t.now = u.now ∧ t.drvLog = (u.now, false) :: u.drvLog := by
  obtain ⟨u, hu, hM⟩ := (R.rxFrame hann (hlegal.imp (fun h => ⟨h, .inr hstop⟩) id) (atPulse_reading hsafe)).failed hstop
  obtain ⟨t, ht⟩ := readFrame_fails hu he
  exact ⟨u, t, hM, ht⟩

end

/-! ## A frame within the tolerances -/

theorem Frame.sent_length (f : Frame) : f.sent.length.toNat = f.length.toNat := by
  have := f.length.isLt
  simp [Frame.sent]
  omega

theorem Frame.sent_data_length (f : Frame) : f.sent.data.length = f.length.toNat := by simp [Frame.sent]

/-- A frame that is heard as it was sent up to its last pulse is read to its end. -/
theorem SentFrame.Heard.rxFrame_whole {f : Frame} {s : State} {t0 : Nat} {ps : List (Nat × Nat)} (hsafe : Safe s)
    (h1 : 1 ≤ f.length.toNat) (h32 : f.length.toNat ≤ 32)
    (H : f.sent.Heard s (frameSymbols s.cfg f) t0 ps (ps.length - 1)) :
    ∃ u, rxFrame (reading s) = .ok f.length.toNat u ∧ AtPulse f.sent s t0 ps ps.length u ∧
      f.sent.WholeIn u.wfr.frame := by
  have hlen : ps.length = f.sent.dataStart f.sent.data.length := by
    rw [H.fits.1, ← SentFrame.symbols_length s.cfg]
    rfl
  have hpos : 42 ≤ f.sent.dataStart f.sent.data.length := by rw [SentFrame.dataStart]; omega
  have hlegal : lengthLegal f.sent.length.toNat = true := (lengthLegal_iff _).mpr (by rw [f.sent_length]; exact ⟨h1, h32⟩)
  have hdata : f.sent.data.length = f.sent.length.toNat := f.sent_data_length.trans f.sent_length.symm
  have hann : f.sent.Announced := by rw [SentFrame.Announced, if_pos hlegal, hdata]
  have R : Reception f.sent s t0 ps (f.sent.dataStart f.sent.data.length) (ps.length - 1 + 1)
      fun x _ => x = some (raised .desync) ∧ False := H.lost hsafe.1 (by omega) fun hlt => by omega
  obtain ⟨len, u, hread, hu, rfl, hwhole⟩ :=
    (R.rxFrame hann (.inl ⟨hlegal, .inl hdata⟩) (atPulse_reading hsafe)).reached (by omega)
  exact ⟨u, by rw [hread, f.sent_length], hlen ▸ hu, hwhole⟩

/-- RXF after the read of a whole frame. -/
theorem acceptFrame_whole {f w : Frame} (h : f.sent.WholeIn w) (rxf : RxFrame) :
    acceptFrame rxf w f.length.toNat =
        { valid := true, frame := { f with pay := (acceptFrame rxf w f.length.toNat).frame.pay } } ∧
      (∀ k, k < f.length.toNat → (acceptFrame rxf w f.length.toNat).frame.pay.read k = f.pay.read k) ∧
      ∀ k, f.length.toNat ≤ k → (acceptFrame rxf w f.length.toNat).frame.pay.read k = rxf.frame.pay.read k := by
  obtain ⟨⟨hu, hs, hr, hc⟩, hl, pay, hp⟩ := h
  refine ⟨?_, fun k hk => ?_, fun k hk => ?_⟩
  · replace hl : w.length = f.length := by rw [hl]; simp [Frame.sent]
    simp only [acceptFrame, hu, hs, hr, hc, hl, Frame.sent]
  · rw [acceptFrame, Memory.read_copyPrefix, if_pos hk, hp, Memory.read_writeBytes, if_pos (Nat.zero_le k), Nat.sub_zero,
      Frame.sent, Memory.bytes_get _ hk, Option.getD_some]
  · rw [acceptFrame, Memory.read_copyPrefix, if_neg (by omega)]

/-- Settles O32: each step of the read takes the symbols that it is for, and WF is the frame at the end. -/
theorem frameWithinToleranceIsReadWhole : Obligations.FrameWithinToleranceIsReadWhole := by
  intro s t0 f ps hsafe h1 h32 H
  obtain ⟨u, hread, hu, hwhole⟩ := H.rxFrame_whole hsafe h1 h32
  have hadv : Advances (reading s) u := by
    have hends := Advances.rxFrame (reading s)
    rw [hread] at hends
    exact hends
  have hlen : ps.length = f.sent.dataStart f.sent.data.length :=
    H.fits.1.trans (SentFrame.symbols_length (w := f.sent) s.cfg)
  have hall : (f.sent.answered s.cfg).filter (fun k => decide (k < ps.length)) = f.sent.answered s.cfg :=
    List.filter_eq_self.mpr fun k hk =>
      decide_eq_true (hlen ▸ lt_dataStart_of_mem_slots (SentFrame.answered_sub hk))
  obtain ⟨hrxf, hpay, hrest⟩ := acceptFrame_whole hwhole u.rxf
  refine ⟨_, exec_readFrame s, (readFrame_frameOp s).frame, ?_⟩
  rw [readFrame_read hread]
  simp only [exitFrame_rxf, exitFrame_result, exitFrame_diag, exitFrame_now, exitFrame_drvLog]
  refine ⟨trivial, hadv.diag, hrxf, hpay, fun k hk => (hrest k hk).trans (by rw [hadv.rxf]; rfl), ?_, fun m hm => ?_⟩
  · rw [hu.now, show ps.length = ps.length - 1 + 1 by rw [hlen, SentFrame.dataStart]; omega]
    rfl
  · rw [hu.drvAt_released H le_rfl le_rfl hm, hall]

/-! ## A length that is not legal -/

/-- Settles O35: the head is read to its end, and then its length is refused. -/
theorem illegalLengthEndsTheReadBeforeTheData : Obligations.IllegalLengthEndsTheReadBeforeTheData := by
  intro s t0 w ps k hsafe hillegal hk H
  replace hk : k = 33 + 2 * w.unicast.toNat + 8 := by rw [hk]; cases w.unicast <;> rfl
  have hack : k ∉ w.answered s.cfg := fun hm =>
    FieldAt.length.not_slot (by omega) hk.le (SentFrame.answered_sub hm)
  have hlen : k + 1 ≤ ps.length := by
    rw [H.fits.1, SentFrame.symbols_length, SentFrame.dataStart]
    omega
  have R : Reception w s t0 ps (k + 1) (k + 1) fun x _ => x = some (raised .desync) ∧ False :=
    H.lost hsafe.1 (by omega) fun hlt => by omega
  obtain ⟨v, u, hread, hu, rfl, -⟩ := (R.readHead (by omega) (atPulse_reading hsafe)).reached (by omega)
  rw [show 42 + 2 * w.unicast.toNat = k + 1 by omega] at hu
  have hlegal : ¬ lengthLegal (w.length.setWidth 12).toNat = true := by
    rw [lengthLegal_iff]
    simp
    omega
  have hframe : rxFrame (reading s) = .err { code := .length, field := .length, index := 0#6 } u := by
    rw [rxFrame_eq, hread, Res.andThen_ok, readBody, if_neg hlegal]
  obtain ⟨t, hexec, hop, hrxf, hresult, hdiag, hnow, hlog⟩ := readFrame_fails hframe (by simp)
  refine ⟨t, hexec, hop, hrxf, hresult, hdiag, hnow.trans hu.now, fun m hm => ?_⟩
  rw [hlog, hu.drvAt_released H hlen le_rfl hm, filter_lt_succ_of_notMem hack]

/-! ## A wrong parity bit -/

section

variable {w : SentFrame} {b n : Nat} {v : BitVec 12} {pos : FieldPos} {i : BitVec 6}

theorem FieldAt.end_lt (h : FieldAt w b n v pos i) : b + n < w.dataStart w.data.length := by
  rw [← symbolPlaces_length]
  exact (List.getElem?_eq_some_iff.mp (h.place (Nat.le_add_right b n) le_rfl)).1

/-- A field of a frame with no data bytes is part of the head. -/
theorem FieldAt.end_lt_head (h : FieldAt w b n v pos i) (hdata : w.data.length = 0) :
    b + n < 42 + 2 * w.unicast.toNat := by
  have hlt := h.end_lt
  rw [hdata, SentFrame.dataStart] at hlt
  obtain ⟨q, ⟨hu, hnum⟩ | ⟨hu, hnum⟩⟩ := h.numbers <;> rw [hu] at hlt ⊢ <;>
    simp only [Bool.toNat_true, Bool.toNat_false] at hlt ⊢ <;> omega

end

/-- Settles O34: the read goes on to the end of the field and refuses its parity bit. -/
theorem wrongParityBitEndsTheReadAtItsField : Obligations.WrongParityBitEndsTheReadAtItsField := by
  intro s t0 w ps k pos i hsafe hann hk H
  obtain ⟨b, n, v, hf, rfl⟩ := field_of_parityBit hk
  have hack : b + n ∉ w.answered s.cfg := fun hm =>
    hf.not_slot (Nat.le_add_right b n) le_rfl (SentFrame.answered_sub hm)
  have hlen : b + n + 1 ≤ ps.length := by
    rw [H.fits.1, List.length_modify, SentFrame.symbols_length]
    exact hf.end_lt
  have hlegal : lengthLegal w.length.toNat = true ∨ b + n < 42 + 2 * w.unicast.toNat := by
    by_cases hlegal : lengthLegal w.length.toNat = true
    · exact .inl hlegal
    · rw [SentFrame.Announced, if_neg hlegal] at hann
      exact .inr (hf.end_lt_head (by omega))
  obtain ⟨u, t, hu, hexec, hop, hrxf, hresult, hdiag, hnow, hlog⟩ :=
    (SentFrame.Heard.flipped hf rfl H hsafe.1).fails hsafe hann hf.end_lt hlegal (by simp)
  refine ⟨t, hexec, hop, hrxf, hresult, hdiag, hnow.trans hu.now, fun m hm => ?_⟩
  rw [hlog, hu.drvAt_released H hlen le_rfl hm, filter_lt_succ_of_notMem hack]

/-! ## A symbol that is lost -/

/-- A read that has heard the pulses before symbol `K + 1` and then ends, at tick n and with this record of the line. -/
theorem SentFrame.Heard.readFrame_lost {w : SentFrame} {s : State} {t0 K n : Nat} {ps : List (Nat × Nat)}
    {pos : FieldPos} {i : BitVec 6} {drives : Nat → Bool} (H : w.Heard s (w.symbols s.cfg) t0 ps K) (hsafe : Safe s)
    (hann : w.Announced) (hlegal : lengthLegal w.length.toNat = true ∨ K + 1 < 44)
    (hplace : (symbolPlaces w.unicast w.data.length)[K + 1]? = some (pos, i))
    (hstop : StopsAt w s t0 ps (K + 1) fun u =>
      u.now = n ∧ ∀ m, s.now ≤ m → drvAt ((u.now, false) :: u.drvLog) m = drives m) :
    ∃ t, exec .readFrame s = .next t ∧ FrameOpFrame s t ∧ t.rxf = { s.rxf with valid := false } ∧
      t.result = { code := .desync, field := pos, index := i } ∧ t.diag = s.diag ++ [t.result] ∧ t.now = n ∧
      ∀ m, s.now ≤ m → drvAt t.drvLog m = drives m := by
  have hlt : K + 1 < w.dataStart w.data.length := by
    rw [← symbolPlaces_length]
    exact (List.getElem?_eq_some_iff.mp hplace).1
  have hlegal' : lengthLegal w.length.toNat = true ∨ K + 1 < 42 + 2 * w.unicast.toNat := by
    by_cases hyes : lengthLegal w.length.toNat = true
    · exact .inl hyes
    · rw [SentFrame.Announced, if_neg hyes] at hann
      rw [show w.data.length = 0 by omega, SentFrame.dataStart] at hlt
      have := hlegal.resolve_left hyes
      refine .inr ?_
      cases hu : w.unicast <;> simp only [hu, Bool.toNat_true, Bool.toNat_false] at hlt ⊢ <;> omega
  obtain ⟨u, t, ⟨hn, hdrives⟩, hexec, hop, hrxf, hresult, hdiag, hnow, hlog⟩ :=
    (H.lost hsafe.1 (by omega) fun _ => ⟨hstop, hplace⟩).fails hsafe hann hlt hlegal' (by simp)
  exact ⟨t, hexec, hop, hrxf, hresult, hdiag, hnow.trans hn, fun m hm => by rw [hlog, hdrives m hm]⟩

/-- Settles O33: RX_START fails on the line alone; later the read goes on to the symbol that is lost, and fails there. -/
theorem readNeedsAStartBitAndEverySymbol : Obligations.ReadNeedsAStartBitAndEverySymbol := by
  intro s hwf hdrv
  have hfails {c : ResCode} {u : State} (h : rxStart (readAt .start (reading s)) = .err (raised c) u)
      (hc : c ≠ .ok) := readFrame_fails (rxFrame_noStart h) hc
  refine ⟨fun hquiet => ?_, fun g d hg hd hshort hpulse => ?_, fun g hg hquiet hdriven => ?_,
    fun t0 w ps j n pos i hsafe hann hlegal h1 hplace H hn => ?_⟩
  · obtain ⟨t, hexec, hop, hrxf, hresult, hdiag, hnow, hlog⟩ := hfails (rxStart_silent hdrv hquiet) (by simp)
    exact ⟨t, hexec, hop, hrxf, hresult, hdiag, hnow, by rw [hlog, hnow]; rfl⟩
  · obtain ⟨t, hexec, hop, hrxf, hresult, hdiag, hnow, hlog⟩ :=
      hfails (rxStart_tooShort hwf hdrv hg hd hshort hpulse) (by simp)
    exact ⟨t, hexec, hop, hrxf, hresult, hdiag, hnow, by rw [hlog, hnow]; rfl⟩
  · obtain ⟨t, hexec, hop, hrxf, hresult, hdiag, hnow, hlog⟩ :=
      hfails (rxStart_stuck hwf hdrv hg hquiet hdriven) (by simp)
    exact ⟨t, hexec, hop, hrxf, hresult, hdiag, hnow, by rw [hlog, hnow]; rfl⟩
  obtain ⟨K, rfl⟩ : ∃ K, j = K + 1 := ⟨j - 1, by omega⟩
  rw [Nat.add_sub_cancel] at H
  replace hn : n = w.readyAt s t0 ps (K + 1) := hn
  have hlen : K + 1 ≤ ps.length := by
    rw [H.fits.1, SentFrame.symbols_length, ← symbolPlaces_length]
    exact (List.getElem?_eq_some_iff.mp hplace).1.le
  have hnow {u : State} (h : AtPulse w s t0 ps (K + 1) u) : u.now = n := h.now.trans hn.symm
  refine ⟨fun hquiet => ?_, fun g d hg hquiet hnot hlong hle hdriven hover => ?_,
    fun g hg hquiet hack hedge hdriven => ?_⟩
  · refine H.readFrame_lost hsafe hann hlegal hplace ⟨fun _ u h => ?_, fun _ u h => ?_⟩
    · refine ⟨_, rxBit_silent h.drv (by rwa [h.env, hnow h, h.cfg]), by rw [← hnow h, ← h.cfg], fun m hm => ?_⟩
      exact h.drvAt_released H hlen (Nat.le_add_right _ _) hm
    · refine ⟨_, ackSend_silent h.drv (by rwa [h.env, hnow h, h.cfg]), by rw [← hnow h, ← h.cfg], fun m hm => ?_⟩
      exact h.drvAt_released H hlen (Nat.le_add_right _ _) hm
  · refine H.readFrame_lost hsafe hann hlegal hplace ⟨fun _ u h => ?_, fun hmem => ?_⟩
    · refine ⟨_, rxBit_tooLong (g := g) (d := d) (h.cfg ▸ hwf) h.drv (h.cfg ▸ hg) (h.cfg ▸ hlong) (h.cfg ▸ hle)
        (by rwa [h.env, hnow h]) (by rwa [h.env, hnow h]) (by rwa [h.env, hnow h, h.cfg]), by rw [← hnow h],
        fun m hm => ?_⟩
      exact h.drvAt_released H hlen (Nat.le_add_right_of_le (Nat.le_add_right _ _)) hm
    · rw [List.contains_iff_mem.mpr hmem] at hnot
      cases hnot
  · refine H.readFrame_lost hsafe hann hlegal hplace ⟨fun hmem => ?_, fun _ u h => ?_⟩
    · exact absurd (List.contains_iff_mem.mp hack) hmem
    · refine ⟨_, ackSend_stuck (g := g) h.drv (h.cfg ▸ hg) rfl (by rwa [h.env, hnow h]) (by rwa [h.env, hnow h])
        (by rwa [h.env, hnow h, h.cfg]), by rw [← hnow h, ← h.cfg], fun m hm => ?_⟩
      have hover : n ≤ m → acksAt s.cfg t0 ps ((w.answered s.cfg).filter (fun k => decide (k < K + 1))) m = false :=
        fun hm => H.acks_over hlen (hn ▸ hm)
      rw [drvAt, hnow h, h.cfg]
      split
      next hle =>
        replace hle : n + g + s.cfg.t0Driven + s.cfg.rxTimeout ≤ m := hle
        rw [hover (by omega), decide_eq_false (p := m < _) (by omega), Bool.and_false, Bool.or_false]
      next hlt =>
        by_cases hown : n + g ≤ m
        · rw [drvAt_drive _ _ _ _ hown, hover (by omega), decide_eq_true hown, Bool.true_and, Bool.false_or]
        · rw [drvAt_drive_before _ _ _ _ (by omega), h.log m hm, decide_eq_false hown, Bool.false_and, Bool.or_false]

end Sys2Proof.Machine
end

section
/-! SUPPORT. What a read has put on the line by some tick does not depend on what it hears later: on a line that is quiet so
far, and behind a slot that it has answered. -/

namespace Sys2Proof.Machine

/-! ## A read that hears nothing at some tick -/

/-- A read past tick T, with its drive record up to that tick. -/
structure Hushed (s0 : State) (T : Nat) (drives : Nat → Bool) (t : State) : Prop where
  env : t.env = s0.env
  drv : t.drv = false
  time : T ≤ t.now
  log : ∀ u, s0.now ≤ u → u ≤ T → drvAt t.drvLog u = drives u

section

variable {s0 s : State} {T : Nat} {drives : Nat → Bool}

/-- Waiting does not write the record. -/
theorem Hushed.waited {t : State} (h : Hushed s0 T drives s) (htime : s.now ≤ t.now)
    (hline : (t.drv, t.drvLog) = (s.drv, s.drvLog)) (henv : t.env = s.env) : Hushed s0 T drives t where
  env := henv.trans h.env
  drv := (congrArg Prod.fst hline).trans h.drv
  time := h.time.trans htime
  log := by rw [show t.drvLog = s.drvLog from congrArg Prod.snd hline]; exact h.log

theorem Hushed.rxBit (h : Hushed s0 T drives s) : (rxBit s).Ends (Hushed s0 T drives) := by
  have htime := Advances.rxBit s
  have hline := writes_rxBit s
  cases hr : Machine.rxBit s <;> rw [hr] at htime hline <;>
    exact h.waited htime.time (hline .line (by decide)) htime.env

/-- An edge comes after a tick at which the line is quiet. -/
theorem Hushed.edge (h : Hushed s0 T drives s) (hquiet : envDrives s0.env T = false) {g : Nat}
    (hedge : s.line (s.now + g) = .dominant) : T < s.now + g := by
  refine Nat.lt_of_le_of_ne (h.time.trans (Nat.le_add_right _ _)) fun hT => ?_
  rw [State.line, lineLevel, h.drv, h.env, ← hT, hquiet] at hedge
  cases hedge

theorem Hushed.acked (h : Hushed s0 T drives s) {n k : Nat} (hlater : T < n) {t : State} (henv : t.env = s.env)
    (hdrv : t.drv = false) (hnow : n + k ≤ t.now) (hlog : t.drvLog = (n + k, false) :: (n, true) :: s.drvLog) :
    Hushed s0 T drives t where
  env := henv.trans h.env
  drv := hdrv
  time := by omega
  log u hu hT := by rw [hlog, drvAt_drive_before _ _ _ _ (hT.trans_lt hlater), h.log u hu hT]

theorem Hushed.ackSend (h : Hushed s0 T drives s) (hquiet : envDrives s0.env T = false) :
    (ackSend s).Ends (Hushed s0 T drives) := by
  rcases ackSend_cases s with ⟨-, hr⟩ | ⟨g, -, hedge, -, t, rfl, ⟨-, hr⟩ | ⟨e, -, -, -, hr⟩⟩ <;> rw [hr]
  · exact h.waited (Nat.le_add_right _ _) rfl rfl
  · exact h.acked (h.edge hquiet hedge) (k := s.cfg.t0Driven) (by simp) (by simp) (by simp) (by simp [setDrv])
  · exact h.acked (h.edge hquiet hedge) (k := s.cfg.t0Driven) (by simp) (by simp) (by simp) (by simp [setDrv])

theorem lasts_of_hushed (hquiet : envDrives s0.env T = false) : Lasts fun _ t => Hushed s0 T drives t where
  notes h _ henv hdrv hnow hlog _ := h.waited hnow.ge (by rw [hdrv, hlog]) henv
  bit _ h := h.rxBit.imp fun _ ht _ => ht
  ack _ h := (h.ackSend hquiet).imp fun _ ht _ => ht

theorem Follows.hushed {w : SentFrame} {t0 : Nat} {ps : List (Nat × Nat)} {stop b : Nat} {α : Type} {r : Res α}
    {Q : α → State → Prop} (hr : Follows w s0 t0 ps stop (fun _ t => Hushed s0 T drives t) b r Q) (hb : stop < b) :
    r.Ends (Hushed s0 T drives) := by
  cases r with
  | ok a t => exact hr.1.past hb
  | err e t => exact hr.2

/-- The exit of a read does not write its record before its last tick. -/
theorem readFrame_hushed (h : (rxFrame (reading s)).Ends (Hushed s T drives)) (hT : drives T = false) {u : Nat}
    (hu : s.now ≤ u) (huT : u ≤ T) : drvAt (readFrame s).drvLog u = drives u := by
  have hexit {t : State} (ht : Hushed s T drives t) : drvAt ((t.now, false) :: t.drvLog) u = drives u := by
    have := ht.time
    rw [drvAt]
    split
    next hle =>
      obtain rfl : u = T := by omega
      exact hT.symm
    next => exact ht.log u hu huT
  cases hr : rxFrame (reading s) with
  | ok len t =>
    rw [hr] at h
    rw [readFrame_read hr, exitFrame_drvLog]
    exact hexit (t := t) h
  | err e t =>
    rw [hr] at h
    rw [readFrame_failed hr, exitFrame_drvLog]
    exact hexit (t := t) h

end

/-! ## On a quiet line -/

/-- RX_START on a line that stays quiet until tick T is over after it. -/
theorem rxStart_quiet {s0 s : State} {T : Nat} (hdrv : s.drv = false) (henv : s.env = s0.env)
    (hlog : ∀ u, s0.now ≤ u → drvAt s.drvLog u = false) (hquiet : QuietFrom s.env s.now (T + 1))
    (hT : T < s.now + s.cfg.rxTimeout) : (rxStart s).Ends (Hushed s0 T fun _ => false) := by
  have hwaited {t : State} (htime : T ≤ t.now) (hline : (t.drv, t.drvLog) = (s.drv, s.drvLog)) (henv' : t.env = s.env) :
      Hushed s0 T (fun _ => false) t :=
    ⟨henv'.trans henv, (congrArg Prod.fst hline).trans hdrv, htime, fun u hu _ => by
      rw [show t.drvLog = s.drvLog from congrArg Prod.snd hline]
      exact hlog u hu⟩
  have hlate {g : Nat} (hedge : s.line (s.now + g) = .dominant) (d : Nat) : T ≤ s.now + g + d := by
    refine Nat.le_of_not_lt fun hlt => ?_
    rw [State.line, lineLevel, hdrv, hquiet _ (Nat.le_add_right _ _) (by omega)] at hedge
    cases hedge
  rcases rxStart_cases s with ⟨-, h⟩ | ⟨g, -, hedge, -, ⟨-, h⟩ | ⟨d, -, -, -, ⟨-, h⟩ | ⟨-, h⟩⟩⟩ <;> rw [h]
  · exact hwaited hT.le rfl rfl
  · exact hwaited (hlate hedge _) rfl rfl
  · exact hwaited (hlate hedge d) rfl rfl
  · exact hwaited (hlate hedge d) rfl rfl

/-- A read on a line that stays quiet past its entry, whatever comes then. -/
theorem reception_quiet {w : SentFrame} {s : State} {t0 T last : Nat} {ps : List (Nat × Nat)}
    (hquiet : QuietFrom s.env s.now (T + 1)) (hnow : s.now ≤ T) (hT : T < s.now + s.cfg.rxTimeout) :
    Reception w s t0 ps last 0 fun _ t => Hushed s T (fun _ => false) t where
  lasts := lasts_of_hushed (hquiet T hnow (Nat.lt_succ_self T))
  start u h := by
    refine Follows.of_ends Nat.one_pos (((rxStart_quiet h.drv h.env ?_ ?_ ?_).imp fun _ ht _ => ht).atPos)
    · intro m hm
      rw [h.log m hm]
      simp [acksAt]
    · rw [h.env, h.now]
      exact hquiet
    · rw [h.cfg, h.now]
      exact hT
  mode _ h := absurd h (by decide)
  field _ hf _ h := absurd h (by have := hf.width; omega)
  slot _ hk hu _ h := absurd h (by have := two_le_of_mem_slots (hk.mem_slots hu); omega)

/-- A read that hears nothing until tick T has not driven the line by then. -/
theorem readFrame_quiet {s : State} (hsafe : Safe s) {T : Nat} (hquiet : QuietFrom s.env s.now (T + 1))
    (hnow : s.now ≤ T) (hT : T < s.now + s.cfg.rxTimeout) : drvAt (readFrame s).drvLog T = false := by
  have R : Reception Frame.zero.sent s 0 [] (Frame.zero.sent.dataStart Frame.zero.sent.data.length) 0
    fun _ t => Hushed s T (fun _ => false) t := reception_quiet hquiet hnow hT
  have hends := (R.rxFrame (Nat.zero_le _) (.inr (by omega)) (atPulse_reading hsafe)).hushed
    (by rw [SentFrame.dataStart]; omega)
  exact readFrame_hushed hends rfl hnow le_rfl

/-! ## Behind a slot that the core has answered -/

section

variable {w : SentFrame} {s : State} {t0 k last : Nat} {ps : List (Nat × Nat)}

/-- The drive record of a read that has answered in the slots up to slot k. -/
def acksThrough (w : SentFrame) (s : State) (t0 : Nat) (ps : List (Nat × Nat)) (k u : Nat) : Bool :=
  acksAt s.cfg t0 ps ((w.answered s.cfg).filter (fun j => decide (j < k + 1))) u

theorem AtPulse.hushed {t : State} (h : AtPulse w s t0 ps (k + 1) t) :
    Hushed s (w.pulseEnd s.cfg t0 ps k) (acksThrough w s t0 ps k) t :=
  ⟨h.env, h.drv, h.now.ge, fun u hu _ => h.log u hu⟩

/-- A frame that is heard up to a slot, whatever comes then. -/
theorem SentFrame.Heard.toSlot (H : w.Heard s (w.symbols s.cfg) t0 ps k) (hwf : s.cfg.wf = true)
    (hk : k ∈ w.answered s.cfg) :
    Reception w s t0 ps last (k + 1)
      fun _ t => Hushed s (w.pulseEnd s.cfg t0 ps k) (acksThrough w s t0 ps k) t := by
  have hslot := SentFrame.answered_sub hk
  have h2 : 2 ≤ k := two_le_of_mem_slots hslot
  have hlen : ps.length = (w.symbols s.cfg).length := H.fits.1
  have hklen : k < ps.length := by
    rw [hlen, SentFrame.symbols_length]
    exact lt_dataStart_of_mem_slots hslot
  have hquiet : envDrives s.env (w.pulseEnd s.cfg t0 ps k) = false := by
    obtain ⟨⟨d, n⟩, hp⟩ : ∃ p, ps[k]? = some p := ⟨_, List.getElem?_eq_getElem hklen⟩
    have hd := SentFrame.heldFor_answered hk d
    have hend := SentFrame.pulseEnd_eq (w := w) (c := s.cfg) (t0 := t0) hp
    rw [H.line_at le_rfl hp ?_ le_rfl fun _ => by omega, hend, decide_eq_false (p := _ < _) (by omega), Bool.and_false]
    obtain ⟨m, rfl⟩ : ∃ m, k = m + 1 := ⟨k - 1, by omega⟩
    exact H.pulseEnd_mono (Nat.le_succ m) (by omega)
  have hno (m : Nat) (hm : m ≤ k + 1) : k + 1 < m → StopsAt w s t0 ps (k + 1) fun _ => True := fun hlt => by omega
  constructor
  case lasts => exact lasts_of_hushed hquiet
  case start =>
    intro u h
    exact Follows.of_reads (e := raised .desync) (M := fun _ => True)
      (rxStart_reads (stop := k + 1) H hwf (by omega) h (by omega)) (by omega) (by omega)
  case mode =>
    intro u _ h
    exact Follows.of_reads (rxMode_reads H hwf (w.symbols_mode _) h (hno 2 (by omega))) (by omega) (by omega)
  case field =>
    intro b n v p q u hf _ hle h
    by_cases hlt : b + n + 1 ≤ k + 1
    · exact Follows.of_reads (rxGroup_reads H hwf hf (fun m _ => rfl) h hle (hno _ hlt)) hlt hlt
    · obtain rfl : b = k + 1 := by
        by_contra hne
        exact hf.not_slot (j := k) (by omega) (by omega) hslot
      exact Follows.of_ends (by omega) ((lasts_of_hushed hquiet).rxGroup n p q h.hushed)
  case slot =>
    intro k' p q u hk' hu _ hle h
    have hlt : k' + 1 ≤ k + 1 := by
      have hslot' := hk'.mem_slots hu
      obtain ⟨-, hnum⟩ := SentFrame.mem_slots.mp hslot
      obtain ⟨-, hnum'⟩ := SentFrame.mem_slots.mp hslot'
      rcases hnum with rfl | rfl | rfl | ⟨x, -, rfl⟩ <;> rcases hnum' with rfl | rfl | rfl | ⟨y, -, rfl⟩ <;> omega
    exact Follows.of_reads (rxAck_reads H hwf hlen hk' hu h hle (hno _ hlt)) hlt hlt

/-- A read that has answered in a slot has driven the line there for `T_0_DRIVEN` ticks, whatever comes then. -/
theorem SentFrame.Heard.readFrame_acked (H : w.Heard s (w.symbols s.cfg) t0 ps k) (hsafe : Safe s)
    (hlegal : lengthLegal w.length.toNat = true) (hdata : w.data.length = w.length.toNat) (hk : k ∈ w.answered s.cfg)
    {u : Nat} (hu : s.now ≤ u) (hlo : pulseStart t0 ps k ≤ u) (hhi : u ≤ w.pulseEnd s.cfg t0 ps k) :
    drvAt (readFrame s).drvLog u = decide (u < pulseStart t0 ps k + s.cfg.t0Driven) := by
  have hslot := SentFrame.answered_sub hk
  have hklt := lt_dataStart_of_mem_slots hslot
  have hlen : ps.length = w.dataStart w.data.length := by rw [H.fits.1, SentFrame.symbols_length]
  have hann : w.Announced := by rw [SentFrame.Announced, if_pos hlegal, hdata]
  have hread := (H.toSlot hsafe.1 hk).rxFrame hann (.inl ⟨hlegal, .inl hdata⟩) (atPulse_reading hsafe)
  have hends : (rxFrame (reading s)).Ends (Hushed s (w.pulseEnd s.cfg t0 ps k) (acksThrough w s t0 ps k)) := by
    by_cases hlast : w.dataStart w.data.length ≤ k + 1
    · obtain ⟨a, t, hr, ht, -⟩ := hread.reached hlast
      rw [hr]
      exact (show w.dataStart w.data.length = k + 1 by omega) ▸ ht |>.hushed
    · exact hread.hushed (by omega)
  have hover : acksThrough w s t0 ps k (w.pulseEnd s.cfg t0 ps k) = false := H.acks_over (by omega) le_rfl
  obtain ⟨g, hg, -⟩ := H.gap (Nat.le_of_succ_le (two_le_of_mem_slots hslot)) (by omega)
  rw [readFrame_hushed hends hover hu hhi, acksThrough, acksAt_filter_lt_succ_of_mem hk, H.acks_over (by omega) (by omega),
    Bool.false_or, decide_eq_true hlo, Bool.true_and]

end

end Sys2Proof.Machine
end

section
/-! THEOREM. Two blocks on one line (R154): the frame that one of them sends is the frame that the other one reads. -/

namespace Sys2Proof.Machine

/-! ## What a sender puts on the line, as pulses -/

/-- The pulses of symbols, with the delays after them. -/
def heldPulses (c : Config) (xs : List (Symbol × Nat)) : List (Nat × Nat) :=
  xs.map fun p => (symbolDriven c p.1, symbolTicks c p.1 + p.2)

theorem heldWave_eq_pulseWave (c : Config) (t : Nat) (xs : List (Symbol × Nat)) :
    heldWave c t xs = pulseWave t (heldPulses c xs) := by
  induction xs generalizing t with
  | nil => rfl
  | cons p xs ih =>
    obtain ⟨x, o⟩ := p
    simp only [heldWave, heldPulses, List.map_cons, pulseWave, ih, Nat.add_assoc]

theorem pulseStart_heldPulses (c : Config) (t : Nat) (xs : List (Symbol × Nat)) (k : Nat) :
    pulseStart t (heldPulses c xs) k = t + heldTicks c (xs.take k) := by
  simp [pulseStart, heldPulses, heldTicks, ← List.map_take, Function.comp_def]

theorem held_getElem? (late : Nat → Nat) (syms : List Symbol) (k : Nat) :
    (held late syms)[k]? = syms[k]?.map fun x => (x, late k) := by
  simp [held, List.getElem?_map, Function.comp_def]

theorem held_take (late : Nat → Nat) (syms : List Symbol) (k : Nat) :
    (held late syms).take k = held late (syms.take k) := by
  refine List.ext_getElem? fun j => ?_
  rw [List.getElem?_take, held_getElem?, held_getElem?, List.getElem?_take]
  split <;> rfl

theorem heldPulses_getElem? {c : Config} {late : Nat → Nat} {syms : List Symbol} {k : Nat} {x : Symbol}
    (h : syms[k]? = some x) :
    (heldPulses c (held late syms))[k]? = some (symbolDriven c x, symbolTicks c x + late k) := by
  rw [heldPulses, List.getElem?_map, held_getElem?, h]
  rfl

theorem heldPulses_length (c : Config) (late : Nat → Nat) (syms : List Symbol) :
    (heldPulses c (held late syms)).length = syms.length := by simp [heldPulses, held]

/-- What follows later does not show earlier. -/
theorem heldWave_take (c : Config) (t : Nat) (xs : List (Symbol × Nat)) {m u : Nat}
    (hu : u < t + heldTicks c (xs.take m)) :
    envDrives (heldWave c t (xs.take m)) u = envDrives (heldWave c t xs) u := by
  conv => rhs; rw [← List.take_append_drop m xs, heldWave_append, envDrives_append, heldWave_before _ _ _ hu]
  rw [Bool.or_false]

/-! ## Configurations that differ in the address of the device -/

theorem symbolDriven_myAddr (c : Config) (a : Addr) : symbolDriven { c with myAddr := a } = symbolDriven c := by
  funext x
  cases x <;> rfl

theorem symbolTicks_myAddr (c : Config) (a : Addr) : symbolTicks { c with myAddr := a } = symbolTicks c := by
  funext x
  cases x <;> rfl

theorem heldPulses_myAddr (c : Config) (a : Addr) (xs : List (Symbol × Nat)) :
    heldPulses { c with myAddr := a } xs = heldPulses c xs := by
  rw [heldPulses, symbolDriven_myAddr, symbolTicks_myAddr, heldPulses]

theorem heldWave_myAddr (c : Config) (a : Addr) (t : Nat) (xs : List (Symbol × Nat)) :
    heldWave { c with myAddr := a } t xs = heldWave c t xs := by
  rw [heldWave_eq_pulseWave, heldPulses_myAddr, ← heldWave_eq_pulseWave]

theorem heldTicks_myAddr (c : Config) (a : Addr) (xs : List (Symbol × Nat)) :
    heldTicks { c with myAddr := a } xs = heldTicks c xs := by
  rw [heldTicks, symbolTicks_myAddr, heldTicks]

/-! ## A sender's pulses as a receiver hears them -/

theorem start_notMem_fieldSymbols {m : Nat} (n : Nat) (v : BitVec m) : Symbol.start ∉ fieldSymbols n v := by
  have hbit (b : Bool) : Symbol.ofBit b ≠ .start := by cases b <;> decide
  rw [fieldSymbols_eq]
  intro h
  obtain ⟨b, -, hb⟩ := List.mem_map.mp h
  exact hbit b hb

theorem start_notMem_slotSymbols (u : Bool) : Symbol.start ∉ slotSymbols u := by cases u <;> decide

/-- Only the first symbol of a frame is a start bit. -/
theorem SentFrame.start_notMem_tail (w : SentFrame) (c : Config) : Symbol.start ∉ (w.symbols c).tail := by
  have hbit (b : Bool) : Symbol.start ≠ Symbol.ofBit b := by cases b <;> decide
  simp [SentFrame.symbols, headSymbols, groupSymbols, start_notMem_fieldSymbols, start_notMem_slotSymbols, hbit]

theorem SentFrame.symbol_start (w : SentFrame) (c : Config) {k : Nat} (h : (w.symbols c)[k]? = some .start) : k = 0 := by
  cases k with
  | zero => rfl
  | succ k =>
    rw [← List.getElem?_tail] at h
    exact absurd (List.mem_of_getElem? h) (w.start_notMem_tail c)

theorem waveTicks_of_start_notMem (c : Config) {syms : List Symbol} (h : Symbol.start ∉ syms) :
    waveTicks c syms = syms.length * c.tBit := by
  induction syms with
  | nil => simp
  | cons x xs ih =>
    obtain ⟨hx, hxs⟩ := not_or.mp (mt List.mem_cons.mpr h)
    rw [waveTicks_cons, ih hxs, List.length_cons, Nat.succ_mul, Nat.add_comm]
    cases x with
    | start => exact absurd rfl hx
    | _ => rfl

/-- The time of symbol k of a frame, by the symbols before it. -/
theorem SentFrame.heldTime_eq (w : SentFrame) (c : Config) (late : Nat → Nat) (t0 : Nat) {k : Nat} (h1 : 1 ≤ k)
    (hk : k ≤ (w.symbols c).length) :
    heldTime c late t0 k = t0 + heldTicks c ((held late (w.symbols c)).take k) := by
  obtain ⟨m, rfl⟩ : ∃ m, k = m + 1 := ⟨k - 1, by omega⟩
  have hcons : w.symbols c = .start :: (w.symbols c).tail := rfl
  have hlen : ((w.symbols c).take (m + 1)).length = m + 1 := List.length_take_of_le hk
  have hticks : waveTicks c ((w.symbols c).take (m + 1)) = c.tStartDriven + c.tStartFloat + (m + 1 - 1) * c.tBit := by
    rw [hcons, List.length_cons] at hk
    rw [hcons, List.take_succ_cons, waveTicks_cons,
      waveTicks_of_start_notMem c fun h => w.start_notMem_tail c (List.mem_of_mem_take h),
      List.length_take_of_le (by omega)]
    rfl
  rw [held_take, ← Machine.heldTime_eq c late t0 _ (by rw [hlen]; exact hticks), hlen]

section

variable {w : SentFrame} {c : Config} {late : Nat → Nat}

/-- The slots of a frame are held up at most until a receiver gives up. -/
structure LateFits (w : SentFrame) (c : Config) (late : Nat → Nat) : Prop where
  answered : ∀ k ∈ w.slots, k ∈ w.answered c
  others : ∀ k, k ∉ w.answered c → late k = 0
  bounded : ∀ k, late k ≤ c.tMaxBit - c.tBit

theorem LateFits.pulse (h : LateFits w c late) (hwf : c.wf = true) {k : Nat} {x : Symbol}
    (hx : (w.symbols c)[k]? = some x) : w.PulseFits c k x (symbolDriven c x, symbolTicks c x + late k) := by
  have htiming := wf_timing hwf
  unfold SentFrame.PulseFits
  by_cases hack : k ∈ w.answered c
  · have hk := two_le_of_mem_slots (SentFrame.answered_sub hack)
    have hlate := h.bounded k
    rw [if_pos (List.contains_iff_mem.mpr hack), SentFrame.heldFor_answered hack]
    cases x with
    | start => exact absurd (w.symbol_start c hx) (by omega)
    | one => simp only [symbolDriven, symbolTicks]; omega
    | zero => simp only [symbolDriven, symbolTicks]; omega
  · have hslot : k ∉ w.slots := fun hm => hack (h.answered k hm)
    rw [if_neg (fun hm => hack (List.contains_iff_mem.mp hm)), if_neg (fun hm => hslot (List.contains_iff_mem.mp hm)),
      SentFrame.heldFor_other hack, h.others k hack]
    cases x with
    | start => simp only [symbolDriven, symbolTicks]; exact ⟨by omega, by omega, by omega, nofun, nofun⟩
    | one => simp only [symbolDriven, symbolTicks]; exact ⟨by omega, by omega, by omega, fun _ => by omega, nofun⟩
    | zero => simp only [symbolDriven, symbolTicks]; exact ⟨by omega, by omega, by omega, nofun, fun _ => by omega⟩

theorem LateFits.fits (h : LateFits w c late) (hwf : c.wf = true) :
    w.Fits c (w.symbols c) (heldPulses c (held late (w.symbols c))) := by
  refine ⟨heldPulses_length _ _ _, fun ⟨⟨x, p⟩, k⟩ hq => ?_⟩
  obtain ⟨hx, hp⟩ := List.getElem?_zip_eq_some.mp (List.mem_zipIdx_iff_getElem?.mp hq)
  rw [heldPulses_getElem? hx] at hp
  have hp : (symbolDriven c x, symbolTicks c x + late k) = p := Option.some.inj hp
  rw [← hp]
  exact h.pulse hwf hx

/-- A pulse is over before the sender begins the symbol after it. -/
theorem LateFits.pulseEnd_lt (h : LateFits w c late) (hwf : c.wf = true) (t0 : Nat) {K m : Nat} (hK : K < m)
    (hm : m ≤ (w.symbols c).length) :
    w.pulseEnd c t0 (heldPulses c (held late (w.symbols c))) K <
      t0 + heldTicks c ((held late (w.symbols c)).take m) := by
  obtain ⟨x, hx⟩ : ∃ x, (w.symbols c)[K]? = some x := ⟨_, List.getElem?_eq_getElem (hK.trans_le hm)⟩
  obtain ⟨-, hlt, -⟩ := h.pulse hwf hx
  rw [← pulseStart_heldPulses]
  refine lt_of_lt_of_le ?_ (pulseStart_mono t0 _ hK)
  rw [pulseStart_step t0 (heldPulses_getElem? hx), SentFrame.pulseEnd_eq (heldPulses_getElem? hx)]
  exact Nat.add_lt_add_left hlt _

/-- What a read that is entered early enough hears of a frame whose sender has sent its first m symbols, held up by the
slots, and with no third driver: up to the end of pulse K, which comes before the sender is done. -/
theorem heard_from_sender {r : State} {now t0 tnow m K : Nat} {log : List (Nat × Bool)} (hwf : r.cfg.wf = true)
    (hlate : LateFits w r.cfg late) (hnow : now ≤ t0) (hentry : r.now ≤ t0) (hsoon : t0 < r.now + r.cfg.rxTimeout)
    (hwave : ∀ u, now ≤ u → drvAt log u =
      envDrives (heldWave r.cfg t0 (held late ((w.symbols r.cfg).take m))) u)
    (henv : ∀ u, r.now ≤ u → u ≤ tnow → envDrives r.env u = (decide (now ≤ u) && drvAt log u))
    (hK : K < m) (hm : m ≤ (w.symbols r.cfg).length)
    (hend : w.pulseEnd r.cfg t0 (heldPulses r.cfg (held late (w.symbols r.cfg))) K ≤ tnow) :
    w.Heard r (w.symbols r.cfg) t0 (heldPulses r.cfg (held late (w.symbols r.cfg))) K where
  fits := hlate.fits hwf
  start p hp := by
    have htiming := wf_timing hwf
    obtain rfl : (r.cfg.tStartDriven, r.cfg.tStartDriven + r.cfg.tStartFloat + late 0) = p := Option.some.inj hp
    exact ⟨hsoon, by simp only; omega, by simp only; omega⟩
  line u hu huK _ := by
    have hbefore := huK.trans_lt (hlate.pulseEnd_lt hwf t0 hK hm)
    rw [henv u hu (huK.trans hend), ← heldWave_eq_pulseWave]
    by_cases hstarted : now ≤ u
    · rw [decide_eq_true hstarted, Bool.true_and, hwave u hstarted, ← held_take, heldWave_take _ _ _ hbefore]
    · rw [decide_eq_false hstarted, Bool.false_and, heldWave_before _ _ _ (by omega)]

end

/-! ## The sender -/

theorem held_nothing (syms : List Symbol) : held (fun _ => 0) syms = syms.map fun x => (x, 0) :=
  heldFrom_plain _ syms 0 fun _ _ _ => rfl

/-- A slot is acknowledged or it is not: by the first tick at which nobody holds the line any more. -/
theorem slot_acked_or_not {c : Config} (hwf : c.wf = true) (env : List (Nat × Nat)) (t : Nat) :
    ∃ d, AckedFor c env t d ∨ UnackedFor c env t d := by
  have htiming := wf_timing hwf
  by_cases hfree : ∃ e, c.t1Driven + e < c.rxTimeout ∧ envDrives env (t + (c.t1Driven + e)) = false
  · obtain ⟨hlt, hend⟩ := Nat.find_spec hfree
    have hdriven : DrivenFrom env (t + c.t1Driven) (t + (c.t1Driven + Nat.find hfree)) := by
      intro u hu hlt'
      obtain ⟨e, rfl⟩ : ∃ e, u = t + (c.t1Driven + e) := ⟨u - (t + c.t1Driven), by omega⟩
      by_contra hno
      exact Nat.find_min hfree (m := e) (by omega) ⟨by omega, by simpa using hno⟩
    refine ⟨c.t1Driven + Nat.find hfree, ?_⟩
    by_cases hok : c.tThreshold ≤ c.t1Driven + Nat.find hfree ∧ c.t1Driven + Nat.find hfree ≤ c.tMaxBit
    · exact .inl ⟨hok.1, hok.2, hdriven, hend⟩
    · exact .inr ⟨by omega, by omega, hdriven, .inl ⟨hlt, hend⟩⟩
  · refine ⟨c.rxTimeout, .inr ⟨by omega, by omega, fun u hu hlt => ?_, .inr rfl⟩⟩
    obtain ⟨e, rfl⟩ : ∃ e, u = t + (c.t1Driven + e) := ⟨u - (t + c.t1Driven), by omega⟩
    by_contra hno
    exact hfree ⟨e, by omega, by simpa using hno⟩

/-- The delays before symbol k alone give its time. -/
theorem heldTime_congr {c : Config} {late late' : Nat → Nat} {t0 k : Nat} (h : ∀ j < k, late j = late' j) :
    heldTime c late t0 k = heldTime c late' t0 k := by
  rw [heldTime, heldTime, List.map_congr_left fun j hj => h j (List.mem_range.mp hj)]

/-- The slots, in wire order, are acknowledged up to some slot, or all of them. -/
theorem slots_held_or_cut {c : Config} (hwf : c.wf = true) (env : List (Nat × Nat)) (t0 : Nat) (slots : List Place)
    (horder : slots.Pairwise fun p q => p.1 < q.1) :
    ∃ late, SlotsHeld c env t0 slots late ∨
      ∃ pre k f i post d, slots = pre ++ (k, f, i) :: post ∧ SlotsHeld c env t0 pre late ∧
        UnackedFor c env (heldTime c late t0 k) d := by
  induction slots using List.reverseRecOn with
  | nil => exact ⟨fun _ => 0, .inl ⟨nofun, fun _ _ => rfl⟩⟩
  | append_singleton slots p ih =>
    obtain ⟨hslots, -, hlast⟩ := List.pairwise_append.mp horder
    obtain ⟨late, hs | ⟨pre, k, f, i, post, d, hsplit, hs, hd⟩⟩ := ih hslots
    · obtain ⟨k, f, i⟩ := p
      obtain ⟨d, hd | hd⟩ := slot_acked_or_not hwf env (heldTime c late t0 k)
      · have hbefore {j : Nat} (hj : j ≤ k) :
            heldTime c (Function.update late k (d - c.tBit)) t0 j = heldTime c late t0 j :=
          heldTime_congr fun m hm => Function.update_of_ne (by omega) _ _
        refine ⟨Function.update late k (d - c.tBit), .inl ⟨fun p hp => ?_, fun j hj => ?_⟩⟩
        · rcases List.mem_append.mp hp with hp | hp
          · have hpk : p.1 < k := hlast p hp _ (List.mem_singleton_self _)
            obtain ⟨e, he, hlate⟩ := hs.1 p hp
            exact ⟨e, by rwa [hbefore hpk.le], by rw [Function.update_of_ne hpk.ne, hlate]⟩
          · obtain rfl := List.mem_singleton.mp hp
            exact ⟨d, by rwa [hbefore le_rfl], Function.update_self ..⟩
        · rw [Function.update_of_ne (hj (k, f, i) (by simp)).symm]
          exact hs.2 j fun p hp => hj p (List.mem_append_left _ hp)
      · exact ⟨late, .inr ⟨slots, k, f, i, [], d, rfl, hs, hd⟩⟩
    · exact ⟨late, .inr ⟨pre, k, f, i, post ++ [p], d, by rw [hsplit]; simp, hs, hd⟩⟩

/-- The slots of a frame come in wire order (R83). -/
theorem ackSlots_order (len : Nat) : (ackSlots len).Pairwise fun p q => p.1 < q.1 := by
  refine List.pairwise_append.mpr ⟨by decide, ?_, fun p hp q hq => ?_⟩
  · rw [dataPlaces, List.pairwise_map]
    exact List.pairwise_lt_range.imp fun hij => by omega
  · have hhead : ∀ p ∈ headAckSlots, p.1 ≤ 44 := by decide
    have := hhead p hp
    obtain ⟨m, -, rfl⟩ := List.mem_map.mp hq
    simp only
    omega

/-! ## The two blocks -/

/-- One block sends its frame to a second one, which reads, or to all; nobody else drives (R154). -/
structure TwoBlocks (s r : State) : Prop where
  sender : Safe s
  reader : Safe r
  cfg : r.cfg = { s.cfg with myAddr := r.cfg.myAddr }
  legal : 1 ≤ s.txf.length.toNat ∧ s.txf.length.toNat ≤ 32
  mine : s.txf.unicast = false ∨ s.txf.receiver = r.cfg.myAddr
  entry : r.now ≤ s.now + s.cfg.tBit
  soon : s.now + s.cfg.tBit < r.now + s.cfg.rxTimeout
  hears : ∀ u, r.now ≤ u → u ≤ (sendFrame s).now →
    envDrives r.env u = (decide (s.now ≤ u) && drvAt (sendFrame s).drvLog u)
  heard : ∀ u, s.now ≤ u → u ≤ (sendFrame s).now →
    envDrives s.env u = (decide (r.now ≤ u) && drvAt (readFrame r).drvLog u)

namespace TwoBlocks

variable {s r : State} {late : Nat → Nat}

theorem tBit (P : TwoBlocks s r) : s.cfg.tBit = r.cfg.tBit := by rw [P.cfg]

theorem rxTimeout (P : TwoBlocks s r) : s.cfg.rxTimeout = r.cfg.rxTimeout := by rw [P.cfg]; rfl

theorem symbols (P : TwoBlocks s r) : frameSymbols s.cfg s.txf = s.txf.sent.symbols r.cfg := by rw [P.cfg]; rfl

theorem heldWave (P : TwoBlocks s r) : heldWave s.cfg = heldWave r.cfg := by
  funext t xs
  rw [P.cfg]
  exact (heldWave_myAddr _ _ _ _).symm

theorem heldTicks (P : TwoBlocks s r) : heldTicks s.cfg = heldTicks r.cfg := by
  funext xs
  rw [P.cfg]
  exact (heldTicks_myAddr _ _ _).symm

/-- A sender that finds the bus busy has not driven it, so the reader has heard nothing and not driven it either. -/
theorem free (P : TwoBlocks s r) : QuietFrom s.env s.now (s.now + s.cfg.tBit) := by
  refine (quietFrom_or_first s.env s.now s.cfg.tBit).resolve_right ?_
  rintro ⟨e, he, hquiet, hdriven⟩
  obtain ⟨t, hexec, -, -, -, -, -, -, hnow, hlog⟩ :=
    (sendFrameRefusesBadLengthAndBusyBus s).2 P.legal.1 P.legal.2 P.sender.2.drvReleased e he hquiet hdriven
  obtain rfl : sendFrame s = t := Host.Outcome.next.inj hexec
  have hsilent {u : Nat} (hu : s.now ≤ u) : drvAt (sendFrame s).drvLog u = false := by
    rw [hlog, drvAt]
    split
    · rfl
    · exact P.sender.drvAt_eq_false hu
  rw [P.heard _ (Nat.le_add_right _ _) hnow.ge, Bool.and_eq_true, decide_eq_true_eq] at hdriven
  obtain ⟨hentered, hdrives⟩ := hdriven
  have hnothing : QuietFrom r.env r.now (s.now + e + 1) := fun u hu hlt => by
    rw [P.hears u hu (by omega)]
    by_cases hs : s.now ≤ u
    · rw [hsilent hs, Bool.and_false]
    · rw [decide_eq_false hs, Bool.false_and]
  rw [readFrame_quiet P.reader hnothing hentered (by have := P.soon; rw [← P.rxTimeout]; omega)] at hdrives
  cases hdrives

theorem slots_answered (P : TwoBlocks s r) {k : Nat} (hk : k ∈ s.txf.sent.slots) : k ∈ s.txf.sent.answered r.cfg := by
  have hu : s.txf.unicast = true := (SentFrame.mem_slots.mp hk).1
  exact SentFrame.mem_answered.mpr ⟨hu, P.mine.resolve_left (by simp [hu]), hk⟩

theorem lateFits_broadcast (P : TwoBlocks s r) : LateFits s.txf.sent r.cfg fun _ => 0 :=
  ⟨fun _ hk => P.slots_answered hk, fun _ _ => rfl, fun _ => Nat.zero_le _⟩

theorem slot_of_place (hu : s.txf.unicast = true) {p : Place} (hp : p ∈ ackSlots s.txf.length.toNat) :
    p.1 ∈ s.txf.sent.slots := by
  rw [SentFrame.slots, slotNumbers, show s.txf.sent.unicast = true from hu, if_pos rfl, s.txf.sent_data_length]
  exact List.mem_map_of_mem hp

/-- Slots that are acknowledged in time are held up for less than a reader waits. -/
theorem lateFits_unicast (P : TwoBlocks s r) (hu : s.txf.unicast = true) {env : List (Nat × Nat)} {t0 : Nat}
    {pre : List Place} (hs : SlotsHeld s.cfg env t0 pre late) (hpre : ∀ p ∈ pre, p ∈ ackSlots s.txf.length.toNat) :
    LateFits s.txf.sent r.cfg late := by
  refine ⟨fun _ hk => P.slots_answered hk, fun k hk => ?_, fun k => ?_⟩
  · refine hs.2 k fun p hp hpk => hk (P.slots_answered ?_)
    exact hpk ▸ slot_of_place hu (hpre p hp)
  · by_cases hk : ∀ p ∈ pre, p.1 ≠ k
    · rw [hs.2 k hk]
      exact Nat.zero_le _
    · push Not at hk
      obtain ⟨p, hp, rfl⟩ := hk
      obtain ⟨d, ⟨-, hmax, -⟩, hlate⟩ := hs.1 p hp
      rw [hlate, ← P.tBit, show r.cfg.tMaxBit = s.cfg.tMaxBit by rw [P.cfg]]
      omega

/-- What the reader hears of the first m symbols of the frame. -/
theorem heard_frame (P : TwoBlocks s r) (hlate : LateFits s.txf.sent r.cfg late) {m K : Nat}
    (hwave : ∀ u, s.now ≤ u → drvAt (sendFrame s).drvLog u =
      envDrives (Machine.heldWave s.cfg (s.now + s.cfg.tBit) (held late ((frameSymbols s.cfg s.txf).take m))) u)
    (hK : K < m) (hm : m ≤ (s.txf.sent.symbols r.cfg).length)
    (hend : s.txf.sent.pulseEnd r.cfg (s.now + s.cfg.tBit) (heldPulses r.cfg (held late (s.txf.sent.symbols r.cfg))) K ≤
      (sendFrame s).now) :
    s.txf.sent.Heard r (s.txf.sent.symbols r.cfg) (s.now + s.cfg.tBit)
      (heldPulses r.cfg (held late (s.txf.sent.symbols r.cfg))) K := by
  rw [P.heldWave, P.symbols] at hwave
  exact heard_from_sender P.reader.1 hlate (Nat.le_add_right _ _) P.entry (by rw [← P.rxTimeout]; exact P.soon) hwave
    P.hears hK hm hend

/-- A frame that is sent whole is read whole. -/
theorem read_of_sends (P : TwoBlocks s r) (hlate : LateFits s.txf.sent r.cfg late)
    (hsends : Sends s (sendFrame s) ResultReg.okay (held late (frameSymbols s.cfg s.txf))) :
    (readFrame r).result = ResultReg.okay ∧
      (readFrame r).rxf = { valid := true, frame := { s.txf with pay := (readFrame r).rxf.frame.pay } } ∧
      ∀ k, k < s.txf.length.toNat → (readFrame r).rxf.frame.pay.read k = s.txf.pay.read k := by
  have hpos := s.txf.sent.two_le_symbols r.cfg
  have hlen := heldPulses_length r.cfg late (s.txf.sent.symbols r.cfg)
  have hall : (frameSymbols s.cfg s.txf).take (s.txf.sent.symbols r.cfg).length = frameSymbols s.cfg s.txf := by
    rw [P.symbols, List.take_length]
  have hend := hlate.pulseEnd_lt P.reader.1 (s.now + s.cfg.tBit)
    (show (s.txf.sent.symbols r.cfg).length - 1 < _ by omega) le_rfl
  rw [held_take, List.take_length, ← P.heldTicks, ← P.symbols, ← hsends.now, P.symbols] at hend
  have H := P.heard_frame hlate (by rw [hall]; exact hsends.wave)
    (show (s.txf.sent.symbols r.cfg).length - 1 < _ by omega) le_rfl hend.le
  rw [← hlen] at H
  obtain ⟨q, hexec, -, hresult, -, hrxf, hpay, -⟩ :=
    frameWithinToleranceIsReadWhole r (s.now + s.cfg.tBit) s.txf _ P.reader P.legal.1 P.legal.2 H
  obtain rfl : readFrame r = q := Host.Outcome.next.inj hexec
  exact ⟨hresult, hrxf, hpay⟩

/-- When a slot of the frame begins, and when the reader has answered in it. -/
theorem slot_pulse (P : TwoBlocks s r) {k : Nat} (hk : k ∈ s.txf.sent.slots) :
    pulseStart (s.now + s.cfg.tBit) (heldPulses r.cfg (held late (s.txf.sent.symbols r.cfg))) k =
        heldTime s.cfg late (s.now + s.cfg.tBit) k ∧
      s.txf.sent.pulseEnd r.cfg (s.now + s.cfg.tBit) (heldPulses r.cfg (held late (s.txf.sent.symbols r.cfg))) k =
        heldTime s.cfg late (s.now + s.cfg.tBit) k + s.cfg.t0Driven := by
  have htiming := wf_timing P.reader.1
  have h2 := two_le_of_mem_slots hk
  have hklen : k < (s.txf.sent.symbols r.cfg).length := by
    rw [SentFrame.symbols_length]
    exact lt_dataStart_of_mem_slots hk
  have hstart : pulseStart (s.now + s.cfg.tBit) (heldPulses r.cfg (held late (s.txf.sent.symbols r.cfg))) k =
      heldTime s.cfg late (s.now + s.cfg.tBit) k := by
    rw [pulseStart_heldPulses, ← SentFrame.heldTime_eq _ _ _ _ (by omega) hklen.le, P.cfg]
    rfl
  obtain ⟨x, hx⟩ : ∃ x, (s.txf.sent.symbols r.cfg)[k]? = some x := ⟨_, List.getElem?_eq_getElem hklen⟩
  have hdriven : symbolDriven r.cfg x ≤ r.cfg.t0Driven := by
    cases x with
    | start => exact absurd (SentFrame.symbol_start _ _ hx) (by omega)
    | one => simp only [symbolDriven]; omega
    | zero => exact le_rfl
  refine ⟨hstart, ?_⟩
  rw [SentFrame.pulseEnd_eq (heldPulses_getElem? hx), hstart, SentFrame.heldFor_answered (P.slots_answered hk),
    max_eq_right hdriven, show r.cfg.t0Driven = s.cfg.t0Driven by rw [P.cfg]]

/-- The reader answers in every slot that the sender reaches. -/
theorem not_cut (P : TwoBlocks s r) (hu : s.txf.unicast = true) {pre post : List Place} {k d : Nat} {f : FieldPos}
    {i : BitVec 6} (hsplit : ackSlots s.txf.length.toNat = pre ++ (k, f, i) :: post)
    (hs : SlotsHeld s.cfg s.env (s.now + s.cfg.tBit) pre late) :
    ¬ UnackedFor s.cfg s.env (heldTime s.cfg late (s.now + s.cfg.tBit) k) d := by
  intro hd
  have htiming := wf_timing P.sender.1
  have hplaces : ∀ p ∈ pre ++ [(k, f, i)], p ∈ ackSlots s.txf.length.toNat := fun p hp => by
    rw [hsplit, show pre ++ (k, f, i) :: post = pre ++ [(k, f, i)] ++ post by simp]
    exact List.mem_append_left _ hp
  have hslot : k ∈ s.txf.sent.slots := slot_of_place hu (hplaces (k, f, i) (by simp))
  have hlate := P.lateFits_unicast hu hs fun p hp => hplaces p (List.mem_append_left _ hp)
  obtain ⟨t, hexec, -, -, -, -, -, hnow, hwave, -⟩ :=
    unicastSendStopsAtTheFirstMissingAck s late pre post k d f i P.sender P.legal.1 P.legal.2 hu P.free hsplit hs hd
  obtain rfl : sendFrame s = t := Host.Outcome.next.inj hexec
  obtain ⟨hstart, hend⟩ := P.slot_pulse hslot (late := late)
  have hklen : k < (s.txf.sent.symbols r.cfg).length := by
    rw [SentFrame.symbols_length]
    exact lt_dataStart_of_mem_slots hslot
  have H := P.heard_frame hlate hwave (Nat.lt_succ_self k) hklen (by omega)
  have hline {u : Nat} (hlo : heldTime s.cfg late (s.now + s.cfg.tBit) k ≤ u)
      (hhi : u ≤ heldTime s.cfg late (s.now + s.cfg.tBit) k + s.cfg.t0Driven) :
      envDrives s.env u = decide (u < heldTime s.cfg late (s.now + s.cfg.tBit) k + s.cfg.t0Driven) := by
    have hafter : s.now + s.cfg.tBit ≤ heldTime s.cfg late (s.now + s.cfg.tBit) k := by
      rw [heldTime, symbolTime]
      omega
    have hentry := P.entry
    have hlegal : lengthLegal s.txf.sent.length.toNat = true := by
      rw [s.txf.sent_length]
      exact (lengthLegal_iff _).mpr P.legal
    rw [P.heard u (by omega) (by omega), decide_eq_true (show r.now ≤ u by omega), Bool.true_and,
      H.readFrame_acked P.reader hlegal (s.txf.sent_data_length.trans s.txf.sent_length.symm) (P.slots_answered hslot)
        (by omega) (by omega) (by omega), hstart, show r.cfg.t0Driven = s.cfg.t0Driven by rw [P.cfg]]
  obtain ⟨hmin, hwrong, hdriven, hover⟩ := hd
  have hshort : d ≤ s.cfg.t0Driven := by
    refine Nat.le_of_not_lt fun hlong => ?_
    have hheld := hdriven (heldTime s.cfg late (s.now + s.cfg.tBit) k + s.cfg.t0Driven) (by omega) (by omega)
    rw [hline (Nat.le_add_right _ _) le_rfl, decide_eq_false (Nat.lt_irrefl _)] at hheld
    cases hheld
  obtain ⟨-, hreleased⟩ := hover.resolve_right (by omega)
  rw [hline (Nat.le_add_right _ _) (by omega), decide_eq_true (by omega)] at hreleased
  cases hreleased

end TwoBlocks

/-- Settles O38: the bus is free, as the reader is silent (`TwoBlocks.free`); every slot is acknowledged, as the reader
answers in it (`TwoBlocks.not_cut`); so the frame is sent whole, and read whole (`TwoBlocks.read_of_sends`). -/
theorem framesRoundTripBetweenTwoBlocks : Obligations.FramesRoundTripBetweenTwoBlocks := by
  intro s r t q hs hr hcfg hmin hmax hmine hentry hsoon hsend hread hhears hheard
  obtain rfl : sendFrame s = t := Host.Outcome.next.inj hsend
  obtain rfl : readFrame r = q := Host.Outcome.next.inj hread
  have P : TwoBlocks s r := ⟨hs, hr, hcfg, ⟨hmin, hmax⟩, hmine, hentry, hsoon, hhears, hheard⟩
  have hlen := (lengthLegal_iff _).mpr P.legal
  obtain ⟨late, hlate, hsends⟩ : ∃ late, LateFits s.txf.sent r.cfg late ∧
      Sends s (sendFrame s) ResultReg.okay (held late (frameSymbols s.cfg s.txf)) := by
    cases hu : s.txf.unicast with
    | false => exact ⟨_, P.lateFits_broadcast, by rw [held_nothing]; exact sends_broadcast hs hlen hu P.free⟩
    | true =>
      obtain ⟨late, hheld | ⟨pre, k, f, i, post, d, hsplit, hheld, hcut⟩⟩ :=
        slots_held_or_cut hs.1 s.env (s.now + s.cfg.tBit) _ (ackSlots_order s.txf.length.toNat)
      · exact ⟨late, P.lateFits_unicast hu hheld fun _ hp => hp, sends_acked hs hlen hu P.free hheld⟩
      · exact absurd hcut (P.not_cut hu hsplit hheld)
  obtain ⟨hresult, hrxf, hpay⟩ := P.read_of_sends hlate hsends
  exact ⟨hsends.result, hresult, by rw [hrxf], by rw [hrxf], by rw [hrxf], by rw [hrxf], by rw [hrxf], by rw [hrxf], hpay⟩

end Sys2Proof.Machine
end

section
/-! SUPPORT. What DISPATCH finds in the Command Table (R171, R172), and which entries it can do without (R173). -/

namespace Sys2Proof.Machine

/-! ## When an entry matches (R172) -/

theorem patternAt_iff (pay : Memory) (i : Nat) (bs : List Byte) :
    patternAt pay i bs = true ↔ ∀ k (h : k < bs.length), pay.read (i + k) = bs[k] := by
  induction bs generalizing i with
  | nil => simp [patternAt]
  | cons b bs ih =>
    rw [patternAt, Bool.and_eq_true, decide_eq_true_iff, ih]
    constructor
    · rintro ⟨hhead, htail⟩ (_ | k) h
      · exact hhead
      · rw [← Nat.succ_add_eq_add_succ]
        exact htail k (Nat.lt_of_succ_lt_succ h)
    · intro hall
      refine ⟨hall 0 (Nat.zero_lt_succ _), fun k h => ?_⟩
      rw [Nat.succ_add_eq_add_succ]
      exact hall (k + 1) (Nat.succ_lt_succ h)

theorem modeAgrees_iff (c : Config) (m : AddrMode) (f : Frame) :
    modeAgrees c m f = true ↔
      (m = .unicast ∧ f.unicast = true ∧ f.receiver = c.myAddr) ∨ (m = .broadcast ∧ f.unicast = false) := by
  cases m <;> simp [modeAgrees]

/-- The model's test of an entry is the rule's condition. -/
theorem entryMatches_iff (c : Config) (f : Frame) (e : CmdEntry) : entryMatches c f e = true ↔ Matches c f e := by
  simp [entryMatches, Matches, modeAgrees_iff, patternAt_iff, and_assoc]

theorem entryMatches_eq_false_iff (c : Config) (f : Frame) (e : CmdEntry) :
    entryMatches c f e = false ↔ ¬ Matches c f e := by
  rw [← entryMatches_iff, Bool.not_eq_true]

/-- What starts with a longer pattern starts with each shorter one. -/
theorem Matches.of_prefix {c : Config} {f : Frame} {e x : CmdEntry} (h : Matches c f x) (hmode : e.mode = x.mode)
    (hpre : e.pattern <+: x.pattern) : Matches c f e := by
  obtain ⟨hagrees, hlen, hbytes⟩ := h
  refine ⟨hmode ▸ hagrees, hpre.length_le.trans hlen, fun k hk => ?_⟩
  rw [hbytes k (hk.trans_le hpre.length_le), hpre.getElem hk]

/-! ## The first entry that matches (R171) -/

/-- The search of the table is the library's, with NONE where it finds nothing. -/
theorem firstMatch_eq_find? (c : Config) (f : Frame) (es : List CmdEntry) :
    firstMatch c f es = (es.find? (entryMatches c f)).elim 0#8 CmdEntry.action := by
  induction es with
  | nil => rfl
  | cons e es ih =>
    rw [firstMatch, List.find?_cons, ih]
    cases entryMatches c f e <;> rfl

theorem firstMatch_of_none {c : Config} {f : Frame} {es : List CmdEntry} (h : ∀ e ∈ es, ¬ Matches c f e) :
    firstMatch c f es = 0#8 := by
  rw [firstMatch_eq_find?, List.find?_eq_none.mpr fun e he => mt (entryMatches_iff c f e).mp (h e he)]
  rfl

theorem firstMatch_of_first {c : Config} {f : Frame} {pre post : List CmdEntry} {e : CmdEntry}
    (hpre : ∀ x ∈ pre, ¬ Matches c f x) (he : Matches c f e) : firstMatch c f (pre ++ e :: post) = e.action := by
  have hfind : (pre ++ e :: post).find? (entryMatches c f) = some e :=
    List.find?_eq_some_iff_append.mpr ⟨(entryMatches_iff c f e).mpr he, pre, post, rfl, fun x hx => by
      rw [(entryMatches_eq_false_iff c f x).mpr (hpre x hx)]
      rfl⟩
  rw [firstMatch_eq_find?, hfind]
  rfl

/-- An entry is not missed where an earlier one matches whatever it matches. -/
theorem firstMatch_without_shadowed {c : Config} {f : Frame} {e x : CmdEntry} (pre mid post : List CmdEntry)
    (h : Matches c f x → Matches c f e) :
    firstMatch c f (pre ++ e :: (mid ++ x :: post)) = firstMatch c f (pre ++ e :: (mid ++ post)) := by
  simp only [firstMatch_eq_find?, List.find?_append, List.find?_cons]
  cases he : entryMatches c f e with
  | true => rfl
  | false =>
    have hx : entryMatches c f x = false :=
      (entryMatches_eq_false_iff c f x).mpr (mt h ((entryMatches_eq_false_iff c f e).mp he))
    rw [hx]

/-- Of the configuration, a match depends on the own address alone (R172 (a)), not on the table. -/
theorem firstMatch_cmdTable (c : Config) (table : List CmdEntry) (f : Frame) (es : List CmdEntry) :
    firstMatch { c with cmdTable := table } f es = firstMatch c f es := by
  have hentry : entryMatches { c with cmdTable := table } f = entryMatches c f := rfl
  rw [firstMatch_eq_find?, firstMatch_eq_find?, hentry]

/-! ## DISPATCH (R171) -/

theorem exec_dispatch (s : State) :
    exec .dispatch s = .next
      { s with act := dispatchAction s, val := (dispatchAction s).setWidth 12, result := ResultReg.okay } := rfl

theorem dispatchAction_of_invalid {s : State} (h : s.rxf.valid = false) : dispatchAction s = 0#8 := by
  simp [dispatchAction, h]

theorem dispatchAction_of_valid {s : State} (h : s.rxf.valid = true) :
    dispatchAction s = firstMatch s.cfg s.rxf.frame s.cfg.cmdTable := if_pos h

/-- Tables whose first match for the frame of RXF is the same give the same action. -/
theorem dispatchAction_cmdTable {s : State} {table : List CmdEntry}
    (h : firstMatch s.cfg s.rxf.frame s.cfg.cmdTable = firstMatch s.cfg s.rxf.frame table) :
    dispatchAction { s with cfg.cmdTable := table } = dispatchAction s := by
  rw [dispatchAction, dispatchAction, h, firstMatch_cmdTable]

/-! ## The obligations -/

/-- Settles O40: an invalid RXF gives NONE, and a valid one what `firstMatch` finds. -/
theorem dispatchYieldsTheFirstMatch : Obligations.DispatchYieldsTheFirstMatch := by
  intro s
  refine ⟨dispatchAction s, exec_dispatch s, dispatchAction_of_invalid, fun hnone => ?_,
    fun pre e post hvalid htable hpre he => ?_⟩
  · cases hvalid : s.rxf.valid with
    | false => exact dispatchAction_of_invalid hvalid
    | true => rw [dispatchAction_of_valid hvalid, firstMatch_of_none hnone]
  · rw [dispatchAction_of_valid hvalid, htable, firstMatch_of_first hpre he]

/-- Settles O41: the earlier entry matches whatever the later one does (`Matches.of_prefix`), so the search never gets
to the later one. -/
theorem shorterEarlierPatternShadowsALongerOne : Obligations.ShorterEarlierPatternShadowsALongerOne := by
  intro s pre mid post e x htable hmode hprefix
  have hsame : firstMatch s.cfg s.rxf.frame s.cfg.cmdTable =
      firstMatch s.cfg s.rxf.frame (pre ++ e :: (mid ++ post)) := by
    rw [htable]
    exact firstMatch_without_shadowed pre mid post fun hx => hx.of_prefix hmode hprefix
  refine ⟨dispatchAction s, exec_dispatch s, ?_⟩
  rintro s' rfl
  rw [exec_dispatch, dispatchAction_cmdTable hsame]

end Sys2Proof.Machine
end

section
/-! SUPPORT. The increment of a packed-BCD byte (R184), and what TICK and APPLY_ACTION make of DS (R182, R183, R185,
R186). -/

namespace Sys2Proof.Machine

/-! ## Packed BCD (R184) -/

/-- The model tests the low digit of a byte as a slice of it. -/
theorem extractLsb'_eq_nine_iff (v : Byte) : v.extractLsb' 0 4 = 9#4 ↔ v.toNat % 16 = 9 := by
  simp [← BitVec.toNat_inj, BitVec.extractLsb'_toNat]

theorem bcdInc_eq_ofNat (v : Byte) :
    bcdInc v = BitVec.ofNat 8 (if v.toNat % 16 = 9 then v.toNat + 7 else v.toNat + 1) := by
  simp only [bcdInc, extractLsb'_eq_nine_iff]
  split
  · exact BitVec.eq_of_toNat_eq (by simp)
  · exact BitVec.eq_of_toNat_eq (by simp)

theorem isBcd_iff (v : Byte) : isBcd v = true ↔ v.toNat % 16 ≤ 9 ∧ v.toNat / 16 ≤ 9 := by
  simp [isBcd]

/-- On packed BCD, a byte is known by its decimal number. -/
theorem eq_of_bcdVal_eq {v w : Byte} (hv : isBcd v = true) (hw : isBcd w = true) (h : bcdVal v = bcdVal w) : v = w := by
  rw [isBcd_iff] at hv hw
  unfold bcdVal at h
  exact BitVec.eq_of_toNat_eq (by omega)

/-- Away from the documented defect at 0x99, the increment is that of the decimal number. -/
theorem bcdInc_of_isBcd {v : Byte} (hv : isBcd v = true) (hne : v ≠ 0x99#8) :
    isBcd (bcdInc v) = true ∧ bcdVal (bcdInc v) = bcdVal v + 1 := by
  have hne' : v.toNat ≠ 0x99 := fun h => hne (BitVec.eq_of_toNat_eq h)
  rw [isBcd_iff] at hv
  rw [isBcd_iff, bcdInc_eq_ofNat]
  unfold bcdVal
  rw [BitVec.toNat_ofNat]
  split <;> omega

/-! ## TICK (R185) -/

theorem exec_tick (s : State) : exec .tick s = .next (report .ok (tickEffect s)) := rfl

theorem tickEffect_ds_of_stop {s : State} (h : s.ds.mode = .stop) : (tickEffect s).ds = s.ds := by
  simp [tickEffect, h]

theorem tickEffect_ds_of_play {s : State} (h : s.ds.mode = .play) (hsec : bcdInc s.ds.sec ≠ 0x60#8) :
    (tickEffect s).ds = { s.ds with sec := bcdInc s.ds.sec } := by
  simp [tickEffect, h, hsec]

theorem tickEffect_ds_of_carry {s : State} (h : s.ds.mode = .play) (hsec : bcdInc s.ds.sec = 0x60#8) :
    (tickEffect s).ds = { s.ds with sec := 0x00#8, min := bcdInc s.ds.min } := by
  simp [tickEffect, h, hsec]

/-! ## APPLY_ACTION (R183) -/

/-- Action 0 is NONE. -/
theorem exec_applyAction_zero (s : State) : exec (.applyAction 0#8) s = .next { s with result := ResultReg.okay } := rfl

/-- Entry a of the Action Table stands at place a - 1 of the list. -/
theorem action_of_getElem? {c : Config} {a : Nat} {e : ActionEntry} (ha : 1 ≤ a)
    (he : c.actionTable[a - 1]? = some e) :
    a ≤ c.nActions ∧ c.action a = some e := by
  obtain ⟨k, rfl⟩ := Nat.exists_eq_add_of_le' ha
  obtain ⟨hk, -⟩ := List.getElem?_eq_some_iff.mp he
  exact ⟨hk, he⟩

theorem exec_applyAction_of_getElem? {s : State} {a : Byte} {e : ActionEntry} (ha : 1 ≤ a.toNat)
    (he : s.cfg.actionTable[a.toNat - 1]? = some e) :
    exec (.applyAction a) s = .next
      { s with ds := applyEffect e.effect s.ds, respPending := s.respPending || e.pending,
               result := ResultReg.okay } := by
  obtain ⟨hle, haction⟩ := action_of_getElem? ha he
  have hop : applyActionOp a s =
      report .ok { s with ds := applyEffect e.effect s.ds, respPending := s.respPending || e.pending } := by
    rw [applyActionOp, if_pos hle, haction]
  exact congrArg Host.Outcome.next hop

/-- ENABLE sets bit 0 of AUX and leaves the others (R182). -/
theorem getLsbD_or_one (v : Byte) (b : Nat) : (v ||| 0x01#8).getLsbD b = (decide (b = 0) || v.getLsbD b) := by
  rw [BitVec.getLsbD_or, BitVec.getLsbD_one, Bool.or_comm]
  simp

/-- DISABLE clears bit 0 of AUX and leaves the others (R182). -/
theorem getLsbD_and_not_one (v : Byte) (b : Nat) : (v &&& 0xFE#8).getLsbD b = (decide (b ≠ 0) && v.getLsbD b) := by
  have hmask : 0xFE#8 = ~~~ 1#8 := rfl
  rw [hmask, BitVec.getLsbD_and, BitVec.getLsbD_not, BitVec.getLsbD_one]
  by_cases hb : b < 8
  · simp [hb, Bool.and_comm]
  · simp [hb, BitVec.getLsbD_of_ge v b (by omega)]

/-! ## The obligations -/

/-- Settles O44: the seconds step as a decimal number; the carry comes just at 59, and then the minutes step too. -/
theorem tickAdvancesTheElapsedTime : Obligations.TickAdvancesTheElapsedTime := by
  rintro s t hplay hmin hsec hle hend ⟨⟩
  have hsec99 : s.ds.sec ≠ 0x99#8 := fun h => absurd (h ▸ hle) (by decide)
  obtain ⟨hbcd, hval⟩ := bcdInc_of_isBcd hsec hsec99
  simp only [report_ds]
  by_cases hcarry : bcdInc s.ds.sec = 0x60#8
  · have hsec59 : bcdVal s.ds.sec = 59 := by
      rw [hcarry] at hval
      exact (Nat.succ.inj hval).symm
    have hmin99 : s.ds.min ≠ 0x99#8 := fun h => hend ⟨h, eq_of_bcdVal_eq hsec rfl hsec59⟩
    obtain ⟨hminBcd, hminVal⟩ := bcdInc_of_isBcd hmin hmin99
    have hzero : bcdVal 0x00#8 = 0 := rfl
    rw [tickEffect_ds_of_carry hplay hcarry]
    dsimp only
    exact ⟨hminBcd, rfl, by omega, by omega⟩
  · have hne60 : bcdVal (bcdInc s.ds.sec) ≠ 60 := fun h => hcarry (eq_of_bcdVal_eq hbcd rfl h)
    rw [tickEffect_ds_of_play hplay hcarry]
    dsimp only
    exact ⟨hmin, hbcd, by omega, by omega⟩

/-- Settles O42: the entry is the one of the Action Table, and each effect is `applyEffect`, bit by bit for AUX. -/
theorem applyActionHasTheEffectOfItsEntry : Obligations.ApplyActionHasTheEffectOfItsEntry := by
  refine fun s a => ⟨fun h => h ▸ exec_applyAction_zero s, fun e ha he =>
    ⟨applyEffect e.effect s.ds, exec_applyAction_of_getElem? ha he, ?_⟩⟩
  refine ⟨fun h => ?none, fun h => ?enable, fun h => ?disable, fun h => ?play, fun h => ?stop,
    fun k h => ?ext⟩ <;> rw [h]
  case none | play | stop | ext => rfl
  case enable => exact ⟨rfl, getLsbD_or_one s.ds.aux⟩
  case disable => exact ⟨rfl, getLsbD_and_not_one s.ds.aux⟩

/-- Settles O43: the modes and the carry of `tickEffect`, and the increment as a number. -/
theorem tickCountsOneSecond : Obligations.TickCountsOneSecond := by
  refine fun s => ⟨(tickEffect s).ds, (tickEffect s).respPending, exec_tick s, tickEffect_ds_of_stop,
    tickEffect_ds_of_play, tickEffect_ds_of_carry, ?_, ?_, bcdInc_eq_ofNat, rfl, rfl⟩
  · rintro (h | h) <;> simp [h]
  · intro hstop hcfg
    simp [hstop, hcfg]

end Sys2Proof.Machine
end

section
/-! SUPPORT. The frame builder (R201, R202, R203): what the patches of a template leave in a payload, and the default
packing of the flags. -/

namespace Sys2Proof.Machine

/-! ## Patches (R201, R203) -/

theorem sourceByte_patchValue (c : Config) (ds : DeviceState) (src : PatchSource) :
    SourceByte c ds src (patchValue c ds src) := by
  refine ⟨?_, ?_, ?_, ?_, ?_⟩ <;> rintro rfl <;> rfl

theorem applyPatches_append (c : Config) (ds : DeviceState) (ps qs : List (Nat × PatchSource)) (m : Memory) :
    applyPatches c ds (ps ++ qs) m = applyPatches c ds qs (applyPatches c ds ps m) := by
  induction ps generalizing m with
  | nil => rfl
  | cons p ps ih => exact ih _

/-- A byte that no patch names keeps its value. -/
theorem read_applyPatches_of_unpatched {c : Config} {ds : DeviceState} {ps : List (Nat × PatchSource)} {k : Nat}
    (hk : ∀ p ∈ ps, p.1 ≠ k) (m : Memory) : (applyPatches c ds ps m).read k = m.read k := by
  induction ps generalizing m with
  | nil => rfl
  | cons p ps ih =>
    obtain ⟨hp, hps⟩ := List.forall_mem_cons.mp hk
    exact (ih hps _).trans (Memory.read_write_other m _ hp.symm)

/-- The last patch of an offset wins (R203). -/
theorem read_applyPatches_of_last {c : Config} {ds : DeviceState} {post : List (Nat × PatchSource)} {k : Nat}
    (hpost : ∀ p ∈ post, p.1 ≠ k) (pre : List (Nat × PatchSource)) (src : PatchSource) (m : Memory) :
    (applyPatches c ds (pre ++ (k, src) :: post) m).read k = patchValue c ds src := by
  rw [applyPatches_append, applyPatches, read_applyPatches_of_unpatched hpost, Memory.read_write_self]

/-- BuildFrame makes the frame that the rule describes, whatever the slot held. -/
theorem builtFrom_buildFrame (c : Config) (ds : DeviceState) {t : Template} (slot : Memory)
    (hlen : t.bytes.length ≤ 32) : BuiltFrom c ds t (buildFrame c ds t slot) where
  unicast := decide_eq_true_iff
  sender := rfl
  receiver := by cases h : t.mode <;> simp [buildFrame, h]
  control := rfl
  length := by
    show (BitVec.ofNat 6 t.bytes.length).toNat = t.bytes.length
    rw [BitVec.toNat_ofNat, Nat.mod_eq_of_lt (by omega)]
  plain k hk hplain := by
    have hbyte : (slot.writeBytes 0 t.bytes).read k = t.bytes[k] := by simp [Memory.read_writeBytes, hk]
    exact (read_applyPatches_of_unpatched hplain _).trans hbyte
  patched pre k src post hpatches hpost := by
    have hread : (buildFrame c ds t slot).pay.read k = patchValue c ds src := by
      rw [buildFrame, hpatches, read_applyPatches_of_last hpost]
    exact hread ▸ sourceByte_patchValue c ds src

/-! ## Flags (R202) -/

/-- Five flags in bits 0 to 4 of a byte, as the default packing adds them up. -/
def packFlags (b0 b1 b2 b3 b4 : Bool) : Byte :=
  BitVec.ofNat 8 (b0.toNat + 2 * b1.toNat + 4 * b2.toNat + 8 * b3.toNat + 16 * b4.toNat)

theorem standardFlags_eq_packFlags (ds : DeviceState) :
    standardFlags ds =
      packFlags ds.repeatOn ds.randomOn ds.scanOn (decide (ds.mode = .play)) (ds.aux.getLsbD 0) := rfl

theorem packFlags_bits : ∀ b0 b1 b2 b3 b4 : Bool,
    (packFlags b0 b1 b2 b3 b4).getLsbD 0 = b0 ∧ (packFlags b0 b1 b2 b3 b4).getLsbD 1 = b1 ∧
      (packFlags b0 b1 b2 b3 b4).getLsbD 2 = b2 ∧ (packFlags b0 b1 b2 b3 b4).getLsbD 3 = b3 ∧
      (packFlags b0 b1 b2 b3 b4).getLsbD 4 = b4 := by
  decide

theorem packFlags_toNat_lt : ∀ b0 b1 b2 b3 b4 : Bool, (packFlags b0 b1 b2 b3 b4).toNat < 2 ^ 5 := by
  decide

theorem packFlags_high (b0 b1 b2 b3 b4 : Bool) {b : Nat} (hb : 5 ≤ b) :
    (packFlags b0 b1 b2 b3 b4).getLsbD b = false :=
  Nat.testBit_lt_two_pow (Nat.lt_of_lt_of_le (packFlags_toNat_lt b0 b1 b2 b3 b4) (Nat.pow_le_pow_right (by decide) hb))

/-! ## The obligation -/

/-- Settles O45: the payload byte by byte (`builtFrom_buildFrame`), the flags bit by bit (`packFlags_bits`), and the
codes as the configuration lists them (`Config.stateByte_given`). -/
theorem builtFrameIsTheTemplateWithItsPatches : Obligations.BuiltFrameIsTheTemplateWithItsPatches := by
  intro c ds
  refine ⟨fun t slot _ hlen _ => builtFrom_buildFrame c ds slot hlen, fun hstandard => ?flags, fun k hcustom => ?custom,
    ⟨?_, ?_, ?_, ?_, ?_, fun n b hb => ?other⟩, fun hwf x y => Config.stateByte_injective hwf⟩
  case flags =>
    have hflags : c.flagsOf ds = standardFlags ds := by rw [Config.flagsOf, hstandard]
    rw [hflags, standardFlags_eq_packFlags]
    obtain ⟨h0, h1, h2, h3, h4⟩ :=
      packFlags_bits ds.repeatOn ds.randomOn ds.scanOn (decide (ds.mode = .play)) (ds.aux.getLsbD 0)
    exact ⟨h0, h1, h2, by rw [h3, decide_eq_true_iff], h4, fun b => packFlags_high _ _ _ _ _⟩
  case custom => rw [Config.flagsOf, hcustom]
  case other =>
    refine Config.stateByte_given c ?_
    rw [StateCodes.all, DevStatus.place, List.getElem?_append_right (Nat.le_add_right 5 n.val)]
    simpa using hb
  all_goals exact Config.stateByte_given c rfl

end Sys2Proof.Machine
end

section
/-! SUPPORT. The response queue (R40, R204 to R207): its contents as a list after a push and after a pop, and what the
operations that queue frames make of it. -/

namespace Sys2Proof.Machine

/-! ## The slots of the indices (R40) -/

/-- An accepted capacity is a power of two, so that the free-running indices wrap with the slots. -/
theorem queueCap_dvd_of_wf {c : Config} (h : c.wf = true) : c.queueCap ∣ 2 ^ 8 := by
  obtain ⟨⟨k, hk⟩, hcap⟩ := (meetsR8_of_wf h).queue
  have hk7 : 2 ^ k ≤ 2 ^ 7 := hk ▸ hcap
  have hk8 : k ≤ 8 := Nat.le_succ_of_le ((Nat.pow_le_pow_iff_right Nat.one_lt_two).mp hk7)
  exact hk ▸ Nat.pow_dvd_pow 2 hk8

theorem slotOf_add {s : State} (hcap : s.cfg.queueCap ∣ 2 ^ 8) (i : Byte) (k : Nat) :
    s.slotOf (i + BitVec.ofNat 8 k) = (i.toNat + k) % s.cfg.queueCap := by
  rw [State.slotOf, BitVec.toNat_add, Nat.mod_mod_of_dvd _ hcap, BitVec.toNat_ofNat, Nat.add_mod,
    Nat.mod_mod_of_dvd _ hcap, ← Nat.add_mod]

/-- Indices less than a capacity apart have different slots. -/
theorem slotOf_add_ne {s : State} (hcap : s.cfg.queueCap ∣ 2 ^ 8) (i : Byte) {j k : Nat} (hjk : j < k)
    (hk : k < j + s.cfg.queueCap) : s.slotOf (i + BitVec.ofNat 8 j) ≠ s.slotOf (i + BitVec.ofNat 8 k) := by
  rw [slotOf_add hcap, slotOf_add hcap]
  intro hsame
  have hmod : j ≡ k [MOD s.cfg.queueCap] := Nat.ModEq.add_left_cancel' i.toNat hsame
  have hle : s.cfg.queueCap ≤ k - j :=
    Nat.le_of_dvd (Nat.sub_pos_of_lt hjk) ((Nat.modEq_iff_dvd' hjk.le).mp hmod)
  omega

/-- The write index stands as many places after the read index as frames are queued. -/
theorem qw_eq_qr_add_queued (s : State) : s.qw = s.qr + BitVec.ofNat 8 s.queued := by
  rw [State.queued, BitVec.ofNat_toNat, BitVec.setWidth_eq, add_sub_cancel]

/-! ## One push (R206) -/

/-- The state after a frame has been queued. -/
def enqueue (f : Frame) (s : State) : State :=
  { s with slots := slotWrite s.slots (s.slotOf s.qw) f, qw := s.qw + 1#8 }

/-- The state after a frame has been dropped for want of room. -/
def overflow (s : State) : State := emit (raised .overflow) { s with ovfCount := saturatingSucc s.ovfCount }

theorem push_of_room {s : State} (hroom : s.queued < s.cfg.queueCap) (f : Frame) : push f s = (true, enqueue f s) :=
  if_neg hroom.ne

theorem push_of_full {s : State} (hfull : s.queued = s.cfg.queueCap) (f : Frame) : push f s = (false, overflow s) :=
  if_pos hfull

theorem queued_enqueue {s : State} (h : Safe s) (hroom : s.queued < s.cfg.queueCap) (f : Frame) :
    (enqueue f s).queued = s.queued + 1 :=
  queued_succ (Nat.lt_of_lt_of_le hroom (queueCap_of_wf h.1).2)

/-- A frame written to the slot of QW comes behind the frames already queued: none of them stands in that slot. -/
theorem queueContents_enqueue {s : State} (h : Safe s) (hroom : s.queued < s.cfg.queueCap) (f : Frame) :
    queueContents (enqueue f s) = queueContents s ++ [f] := by
  rw [queueContents, queued_enqueue h hroom, List.range_succ, List.map_append]
  refine congrArg₂ (· ++ ·) (List.map_congr_left fun k hk => ?old) (congrArg (fun g => [g]) ?new)
  case old =>
    refine slotRead_write_other _ f ?_
    rw [qw_eq_qr_add_queued s]
    exact slotOf_add_ne (queueCap_dvd_of_wf h.1) s.qr (List.mem_range.mp hk) (by omega)
  case new =>
    show slotRead (slotWrite s.slots (s.slotOf s.qw) f) (s.slotOf (s.qr + BitVec.ofNat 8 s.queued)) = f
    rw [← qw_eq_qr_add_queued, slotRead_write_self]

/-! ## One pop (R207) -/

/-- The head of a queue that is not empty is the frame that a pop takes, and the rest is what it leaves. -/
theorem queueContents_popHead {s : State} (hne : s.qw ≠ s.qr) :
    queueContents s = (popHead s).txf :: queueContents (popHead s) := by
  have hqueued : s.queued = (popHead s).queued + 1 := (queued_pred hne).symm
  rw [queueContents, hqueued, List.range_succ_eq_map, List.map_cons, List.map_map]
  refine congrArg₂ List.cons ?head (List.map_congr_left fun k _ => ?tail)
  case head =>
    show slotRead s.slots (s.slotOf (s.qr + 0#8)) = slotRead s.slots (s.slotOf s.qr)
    rw [BitVec.add_zero]
  case tail =>
    have hindex : s.qr + BitVec.ofNat 8 (k + 1) = s.qr + 1#8 + BitVec.ofNat 8 k := by
      rw [Nat.add_comm, BitVec.ofNat_add, BitVec.add_assoc]
    exact congrArg (fun i => slotRead s.slots (s.slotOf i)) hindex

/-! ## Templates (R203) -/

/-- The template identifiers of an accepted configuration all stand for a template (R181, R200). -/
theorem templates_of_wf {c : Config} (h : c.wf = true) :
    (∀ e ∈ c.actionTable, ∀ k ∈ e.responses, k < c.templates.length) ∧ c.statusTemplate < c.templates.length := by
  simp only [Config.wf, Config.wfTables, Bool.and_eq_true, List.all_eq_true, decide_eq_true_eq] at h
  obtain ⟨-, ⟨⟨⟨-, hresponses⟩, hstatus⟩, -⟩⟩ := h
  exact ⟨hresponses, hstatus⟩

/-- A template of the configuration is built and pushed. -/
theorem pushTemplate_of_lt {s : State} (h : Safe s) {k : Nat} (hk : k < s.cfg.templates.length) :
    ∃ tp f, s.cfg.templates[k]? = some tp ∧ BuiltFrom s.cfg s.ds tp f ∧ pushTemplate k s = push f s := by
  have htp : s.cfg.templates[k]? = some s.cfg.templates[k] := List.getElem?_eq_getElem hk
  obtain ⟨⟨-, hlen⟩, -⟩ := (meetsR8_of_wf h.1).tables.2 _ (List.getElem_mem hk)
  exact ⟨_, _, htp, builtFrom_buildFrame s.cfg s.ds _ hlen, by rw [pushTemplate, htp]⟩

/-- From s to t the frames `new` of the first templates of the list have been queued, as far as there was room, and the
`lost` others have been dropped, counted and logged (R204, R206). -/
structure Queues (s : State) (ks : List Nat) (t : State) (new : List Frame) (lost : Nat) : Prop where
  contents : queueContents t = queueContents s ++ new
  room : new.length = min ks.length (s.cfg.queueCap - s.queued)
  rest : lost + new.length = ks.length
  built : ∀ (j : Nat) (f : Frame), new[j]? = some f →
    ∃ k tp, ks[j]? = some k ∧ s.cfg.templates[k]? = some tp ∧ BuiltFrom s.cfg s.ds tp f
  others : t = { s with slots := t.slots, qw := s.qw + BitVec.ofNat 8 new.length, ovfCount := t.ovfCount,
                        diag := s.diag ++ List.replicate lost (raised .overflow) }
  count : t.ovfCount.toNat = min (s.ovfCount.toNat + lost) 0xFFFF

theorem Queues.nil (s : State) : Queues s [] s [] 0 where
  contents := (List.append_nil _).symm
  room := (Nat.zero_min _).symm
  rest := rfl
  built _ _ h := nomatch h
  others := by simp
  count := by have := s.ovfCount.isLt; omega

theorem toNat_saturatingSucc (n : BitVec 16) : (saturatingSucc n).toNat = min (n.toNat + 1) 0xFFFF := by
  have hn := n.isLt
  unfold saturatingSucc
  split
  next htop => rw [htop]; rfl
  next htop =>
    have hlt : n.toNat ≠ 0xFFFF := fun h => htop (BitVec.eq_of_toNat_eq h)
    rw [BitVec.toNat_add, BitVec.toNat_ofNat]
    omega

/-- The first frame of a list goes into a free slot. -/
theorem Queues.cons_room {s t : State} {k : Nat} {ks : List Nat} {tp : Template} {f : Frame} {new : List Frame}
    {lost : Nat} (h : Safe s) (hroom : s.queued < s.cfg.queueCap) (htp : s.cfg.templates[k]? = some tp)
    (hf : BuiltFrom s.cfg s.ds tp f) (q : Queues (enqueue f s) ks t new lost) :
    Queues s (k :: ks) t (f :: new) lost where
  contents := by rw [q.contents, queueContents_enqueue h hroom, List.append_assoc, List.singleton_append]
  room := by
    have hlen : new.length = min ks.length (s.cfg.queueCap - (enqueue f s).queued) := q.room
    rw [queued_enqueue h hroom] at hlen
    simp only [List.length_cons]
    omega
  rest := by rw [List.length_cons, List.length_cons, ← q.rest, Nat.add_assoc]
  built
    | 0, _, rfl => ⟨k, tp, rfl, htp, hf⟩
    | j + 1, g, hg => q.built j g hg
  others := by
    have hqw : (enqueue f s).qw + BitVec.ofNat 8 new.length = s.qw + BitVec.ofNat 8 (f :: new).length := by
      show s.qw + 1#8 + _ = _
      rw [List.length_cons, Nat.add_comm, BitVec.ofNat_add, BitVec.add_assoc]
    rw [← hqw]
    exact q.others
  count := q.count

/-- In a full queue the first frame of a list is dropped, and so are the others. -/
theorem Queues.cons_full {s t : State} {k : Nat} {ks : List Nat} {new : List Frame} {lost : Nat}
    (hfull : s.queued = s.cfg.queueCap) (q : Queues (overflow s) ks t new lost) :
    Queues s (k :: ks) t [] (lost + 1) := by
  have hroom : new.length = min ks.length (s.cfg.queueCap - s.queued) := q.room
  obtain rfl : new = [] := List.eq_nil_of_length_eq_zero (by omega)
  exact
    { contents := q.contents
      room := by rw [hfull, Nat.sub_self, Nat.min_zero, List.length_nil]
      rest := congrArg (· + 1) q.rest
      built := fun _ _ h => nomatch h
      others := by
        rw [List.replicate_succ, ← List.singleton_append, ← List.append_assoc]
        exact q.others
      count := by
        have hcount : t.ovfCount.toNat = min ((saturatingSucc s.ovfCount).toNat + lost) 0xFFFF := q.count
        rw [toNat_saturatingSucc] at hcount
        omega }

/-- What a list of templates makes of the queue, and whether it all went in. -/
theorem pushAll_queues (ks : List Nat) {s : State} (h : Safe s) (hks : ∀ k ∈ ks, k < s.cfg.templates.length) :
    ∃ new lost, Queues s ks (pushAll ks s).2 new lost ∧ (pushAll ks s).1 = decide (lost = 0) := by
  induction ks generalizing s with
  | nil => exact ⟨[], 0, Queues.nil s, rfl⟩
  | cons k ks ih =>
    obtain ⟨hk, hrest⟩ := List.forall_mem_cons.mp hks
    obtain ⟨tp, f, htp, hf, hpush⟩ := pushTemplate_of_lt h hk
    have hsafe := safe_pushTemplate h k
    rcases h.2.queueBounded.lt_or_eq with hroom | hfull
    · rw [push_of_room hroom] at hpush
      rw [hpush] at hsafe
      obtain ⟨new, lost, hqueues, hall⟩ := ih hsafe hrest
      simp only [pushAll, hpush]
      exact ⟨f :: new, lost, hqueues.cons_room h hroom htp hf, hall⟩
    · rw [push_of_full hfull] at hpush
      rw [hpush] at hsafe
      obtain ⟨new, lost, hqueues, -⟩ := ih hsafe hrest
      simp only [pushAll, hpush]
      exact ⟨[], lost + 1, hqueues.cons_full hfull, rfl⟩

/-! ## The operations at the host port -/

theorem exec_qPush (s : State) :
    exec .qPush s = .next (report (pushCode (push s.txf s).1) (push s.txf s).2) := rfl

/-- An entry of the Action Table has its templates pushed, and the code says whether they all went in (R204). -/
theorem exec_respond_of_getElem? {s : State} {a : Byte} {e : ActionEntry} (ha : 1 ≤ a.toNat)
    (he : s.cfg.actionTable[a.toNat - 1]? = some e) :
    exec (.respond a) s = .next (report (pushCode (pushAll e.responses s).1) (pushAll e.responses s).2) := by
  obtain ⟨hle, haction⟩ := action_of_getElem? ha he
  have hop : respondOp a s = report (pushCode (pushAll e.responses s).1) (pushAll e.responses s).2 := by
    rw [respondOp, if_pos hle, haction]
  exact congrArg Host.Outcome.next hop

/-- OVERFLOW says that a frame was lost. -/
theorem raised_pushCode (lost : Nat) :
    raised (pushCode (decide (lost = 0))) = if lost = 0 then ResultReg.okay else raised .overflow := by
  cases lost <;> rfl

/-! ## The obligations -/

/-- Settles O48: the two outcomes of a push. -/
theorem pushQueuesACopyOrDropsTheNewest : Obligations.PushQueuesACopyOrDropsTheNewest := by
  refine fun s h => ⟨fun hroom => ?room, fun hfull => ?full⟩
  case room =>
    rw [exec_qPush, push_of_room hroom]
    exact ⟨_, rfl, queueContents_enqueue h hroom s.txf, rfl⟩
  case full =>
    rw [exec_qPush, push_of_full hfull]
    rfl

/-- Settles O49: the contents are the frame that the pop takes, followed by what it leaves. -/
theorem popTakesTheHeadInOrder : Obligations.PopTakesTheHeadInOrder :=
  fun _ => ⟨fun hempty => congrArg Host.Outcome.next (if_pos hempty), fun hne =>
    ⟨_, _, queueContents_popHead hne, congrArg Host.Outcome.next (if_neg hne), rfl⟩⟩

/-- Settles O47: the status template is built and pushed; the two outcomes are those of the push. -/
theorem buildStatusQueuesTheStatusFrame : Obligations.BuildStatusQueuesTheStatusFrame := by
  intro s h
  obtain ⟨tp, f, htp, hf, hpush⟩ := pushTemplate_of_lt h (templates_of_wf h.1).2
  have hpending (hp : s.respPending = true) : exec .buildStatus s = .next
      (report (pushCode (push f s).1) { (push f s).2 with respPending := false }) := by
    rw [← hpush]
    exact congrArg Host.Outcome.next (if_pos hp)
  refine ⟨fun hp => ?none, fun hp hroom => ?room, fun hp hfull => ?full⟩
  case none => exact congrArg Host.Outcome.next (if_neg (ne_true_of_eq_false hp))
  case room =>
    rw [hpending hp, push_of_room hroom]
    exact ⟨_, f, tp, rfl, queueContents_enqueue h hroom f, htp, hf, rfl⟩
  case full =>
    rw [hpending hp, push_of_full hfull]
    rfl

/-- Settles O46: the templates of the entry go into the queue one after the other (`pushAll_queues`). -/
theorem respondQueuesTheResponsesOfTheAction : Obligations.RespondQueuesTheResponsesOfTheAction := by
  refine fun s a h => ⟨fun hzero => hzero ▸ rfl, fun e ha he => ?_⟩
  obtain ⟨new, lost, hqueues, hall⟩ :=
    pushAll_queues e.responses h ((templates_of_wf h.1).1 e (List.mem_of_getElem? he))
  refine ⟨_, new, lost, exec_respond_of_getElem? ha he, hqueues.contents, hqueues.room,
    Nat.eq_sub_of_add_eq hqueues.rest, hqueues.built, ?_, hqueues.count⟩
  rw [← raised_pushCode, ← hall]
  exact congrArg (setResult _) hqueues.others

end Sys2Proof.Machine
end

section
/-! SUPPORT. The drain of the queue, the run step and NOP (R209, R215, R216): the operations inside them one by one. -/

namespace Sys2Proof.Machine

/-! ## Attempts (R209) -/

theorem sendFrame_att (s : State) : (sendFrame s).att = s.att :=
  congrArg Prod.snd (writes_sendFrame s .drops (by decide))

/-- A further attempt, by how it ends. -/
theorem attempts_succ {s : State} {a : BitVec 2} (ha : s.att + 1#2 = a) (k : Nat) :
    attempts (k + 1) s =
      if (sendFrame { s with att := a }).result.code = .ok then sendFrame { s with att := a }
      else attempts k (sendFrame { s with att := a }) := by
  rw [← ha]
  rfl

theorem exec_qDrain_of_ne {s : State} (hne : s.qw ≠ s.qr) :
    exec .qDrain s = .next (attempts 3 { popHead s with att := 0#2 }) :=
  congrArg Host.Outcome.next (if_neg hne)

/-! ## The branches of RUN_STEP (R215) -/

theorem runStepOp_of_dominant {s : State} (h : s.drv = true ∨ envDrives s.env s.now = true) :
    runStepOp s = receiveBranch s :=
  if_pos ((lineLevel_dominant s.drv s.env s.now).mpr h)

theorem runStepOp_of_recessive {s : State} (hdrv : s.drv = false) (henv : envDrives s.env s.now = false) :
    runStepOp s =
      if s.respPending || decide (s.qw ≠ s.qr) then drainOp (buildStatusOp s) else report .ok s :=
  if_neg (mt (lineLevel_dominant s.drv s.env s.now).mp (by simp [hdrv, henv]))

/-! ## The obligations -/

/-- Settles O50: the equation of an attempt three times, with ATT as the attempt before has left it. -/
theorem drainSendsTheHeadAtMostThreeTimes : Obligations.DrainSendsTheHeadAtMostThreeTimes := by
  refine fun s => ⟨fun hempty => congrArg Host.Outcome.next (if_pos hempty), fun hne => ?_⟩
  obtain ⟨u, hu⟩ : ∃ u, u = sendFrame { popHead s with att := 1#2 } := ⟨_, rfl⟩
  obtain ⟨v, hv⟩ : ∃ v, v = sendFrame { u with att := 2#2 } := ⟨_, rfl⟩
  obtain ⟨w, hw⟩ : ∃ w, w = sendFrame { v with att := 3#2 } := ⟨_, rfl⟩
  have huAtt : u.att + 1#2 = 2#2 := by rw [hu, sendFrame_att]; rfl
  have hvAtt : v.att + 1#2 = 3#2 := by rw [hv, sendFrame_att]; rfl
  have hdrain : exec .qDrain s = .next
      (if u.result.code = .ok then u else if v.result.code = .ok then v else if w.result.code = .ok then w
        else dropFrame w) := by
    have hfirst : State.att { popHead s with att := 0#2 } + 1#2 = 1#2 := rfl
    rw [exec_qDrain_of_ne hne, attempts_succ hfirst, ← hu, attempts_succ huAtt, ← hv, attempts_succ hvAtt, ← hw]
    rfl
  refine ⟨_, _, u, v, w, queueContents_popHead hne, congrArg _ hu.symm, congrArg _ hv.symm, congrArg _ hw.symm, ?_⟩
  refine ⟨fun hok => ?_, fun huBad hok => ?_, fun huBad hvBad hok => ?_,
    fun huBad hvBad hwBad => ⟨dropFrame w, ?_, rfl⟩⟩
  · rw [hdrain, if_pos hok]
  · rw [hdrain, if_neg huBad, if_pos hok]
  · rw [hdrain, if_neg huBad, if_neg hvBad, if_pos hok]
  · rw [hdrain, if_neg huBad, if_neg hvBad, if_neg hwBad]

/-- Settles O51: each branch runs the operations that it is made of. -/
theorem runStepReceivesElseSends : Obligations.RunStepReceivesElseSends := by
  refine fun s => ⟨fun hline => ⟨readFrame s, rfl, fun hbad => ?bad, fun hok => ⟨_, _, _, rfl, rfl, rfl, ?good⟩⟩,
    fun hdrv henv => ⟨fun hpending => ⟨_, _, rfl, rfl, ?send⟩, fun hpending hempty => ?rest⟩⟩
  case bad =>
    exact congrArg Host.Outcome.next ((runStepOp_of_dominant hline).trans (if_neg hbad))
  case good =>
    exact congrArg Host.Outcome.next ((runStepOp_of_dominant hline).trans (if_pos hok))
  case send =>
    exact congrArg Host.Outcome.next ((runStepOp_of_recessive hdrv henv).trans (if_pos (by simpa using hpending)))
  case rest =>
    exact congrArg Host.Outcome.next ((runStepOp_of_recessive hdrv henv).trans (if_neg (by simp [hpending, hempty])))

/-- Settles O52. -/
theorem nopOnlyReportsOk : Obligations.NopOnlyReportsOk := fun _ => rfl

end Sys2Proof.Machine
end

section
/-! SUPPORT. What a step does between operations: an arrival that has come is served (R240, R241, R244), or idle time
passes (R255). -/

namespace Sys2Proof.Machine

/-! ## One step between operations, by what there is to do -/

theorem step_of_nextTodo_serve {s r : State} (hwf : s.cfg.wf = true) (h : nextTodo s = .serve r) :
    step s = .next (deliverTick r) := by
  simp only [step, hwf, h, if_true]

theorem step_of_nextTodo_wait {s r : State} {n : Nat} (hwf : s.cfg.wf = true) (h : nextTodo s = .wait n r) :
    step s = .next (waitTicks n r) := by
  simp only [step, hwf, h, if_true]

/-- An arrival that has come goes before whatever stands at the port. -/
theorem nextTodo_of_due {s : State} (hdue : s.arrivalDue = true) : nextTodo s = .serve (takeArrival s) :=
  if_pos hdue

theorem nextTodo_of_tick {s : State} {rest : List Input} (hdue : s.arrivalDue = false)
    (htick : s.inputs = .tick :: rest) : nextTodo s = .serve { s with inputs := rest } := by
  simp [nextTodo, hdue, htick]

theorem nextTodo_of_nil {s : State} (hdue : s.arrivalDue = false) (hempty : s.inputs = []) :
    nextTodo s = .wait 1 s := by
  simp [nextTodo, hdue, hempty]

theorem nextTodo_of_idle {s : State} {n : Nat} {rest : List Input} (hdue : s.arrivalDue = false)
    (hidle : s.inputs = .idle n :: rest) :
    nextTodo s = .wait (s.idleTicks n) { s with inputs := idleRest (s.idleTicks n) n rest } := by
  simp [nextTodo, hdue, hidle]

/-! ## Serving an arrival (R240, R241, R244) -/

theorem arrivalDue_of_mem {s : State} {t : Nat} (ht : t ∈ s.arrivals) (hcame : t ≤ s.now) : s.arrivalDue = true :=
  List.any_eq_true.mpr ⟨t, ht, decide_eq_true hcame⟩

/-- The arrival taken is the first on the list that has come; those before and after it stay. -/
theorem takeArrival_of_append {s : State} {pre post : List Nat} {t : Nat} (hlist : s.arrivals = pre ++ t :: post)
    (hpre : ∀ u ∈ pre, s.now < u) (hcame : t ≤ s.now) : takeArrival s = { s with arrivals := pre ++ post } := by
  have herase : s.arrivals.eraseP (fun u => decide (u ≤ s.now)) = pre ++ post := by
    rw [hlist, List.eraseP_append_right _ fun u hu => by simpa using hpre u hu]
    exact congrArg (pre ++ ·) (List.eraseP_cons_of_pos (decide_eq_true hcame))
  rw [takeArrival, herase]

/-- Served with MASKED 0, an arrival does what the instruction TICK does, except that it leaves RESULT alone (R244). -/
theorem deliverTick_of_unmasked {r : State} (hmasked : r.masked = false) :
    ∃ u, exec .tick r = .next u ∧ deliverTick r = { u with result := r.result } := by
  obtain ⟨hm, -⟩ | ⟨-, hdeliver⟩ := deliverTick_cases r
  · exact absurd hm (ne_true_of_eq_false hmasked)
  · exact ⟨report .ok (tickEffect r), exec_tick r, hdeliver⟩

theorem deliverTick_of_masked {r : State} (hmasked : r.masked = true) : deliverTick r = { r with tickLatch := true } :=
  if_pos hmasked

/-- A step that serves an arrival, by MASKED (R241). -/
theorem step_serves {s r : State} (hwf : s.cfg.wf = true) (hdo : nextTodo s = .serve r) (hmasked : r.masked = s.masked)
    (hresult : r.result = s.result) :
    (s.masked = true → step s = .next { r with tickLatch := true }) ∧
    (s.masked = false → ∃ u, exec .tick r = .next u ∧ step s = .next { u with result := s.result }) := by
  rw [step_of_nextTodo_serve hwf hdo, ← hmasked, ← hresult]
  refine ⟨fun hm => congrArg Host.Outcome.next (deliverTick_of_masked hm), fun hm => ?_⟩
  obtain ⟨u, hexec, hdeliver⟩ := deliverTick_of_unmasked hm
  exact ⟨u, hexec, congrArg Host.Outcome.next hdeliver⟩

/-! ## Idling (R255) -/

/-- An idle stretch: the ticks that pass are those up to its first arrival, and what is left of it stays at the port. -/
theorem step_of_idle {s : State} {n : Nat} {rest : List Input} (hwf : s.cfg.wf = true) (hdue : s.arrivalDue = false)
    (hidle : s.inputs = .idle n :: rest) :
    step s = .next { s with now := s.now + s.idleTicks n, inputs := idleRest (s.idleTicks n) n rest } :=
  step_of_nextTodo_wait hwf (nextTodo_of_idle hdue hidle)

theorem idleRest_self (n : Nat) (rest : List Input) : idleRest n n rest = rest :=
  if_neg (lt_irrefl n)

theorem idleRest_of_lt {k n : Nat} (h : k < n) (rest : List Input) : idleRest k n rest = .idle (n - k) :: rest :=
  if_pos h

/-! ## The obligations -/

/-- Settles O2: both ways an arrival can come make it the next thing to serve. -/
theorem arrivalsAreServedBetweenOperations : Obligations.ArrivalsAreServedBetweenOperations := by
  rintro s r hwf (⟨pre, t, post, hlist, hpre, hcame, rfl⟩ | ⟨hfuture, rest, htick, rfl⟩)
  · have hmem : t ∈ s.arrivals := hlist ▸ List.mem_append_right pre List.mem_cons_self
    have hdo := nextTodo_of_due (arrivalDue_of_mem hmem hcame)
    rw [takeArrival_of_append hlist hpre hcame] at hdo
    exact step_serves hwf hdo rfl rfl
  · exact step_serves hwf (nextTodo_of_tick ((arrivalDue_eq_false_iff s).mpr hfuture) htick) rfl rfl

/-- Settles O3: how much of a stretch passes is `idleTicks`, and `idleRest` is what is left of it. -/
theorem idlingKeepsTheState : Obligations.IdlingKeepsTheState := by
  intro s hwf hfuture
  have hdue := (arrivalDue_eq_false_iff s).mpr hfuture
  refine ⟨fun hempty => step_of_nextTodo_wait hwf (nextTodo_of_nil hdue hempty), fun n rest hidle => ?_⟩
  rw [step_of_idle hwf hdue hidle]
  refine ⟨fun hquiet => ?whole, fun a ha hfirst hin => ?cut⟩
  case whole => rw [idleTicks_undisturbed hquiet, idleRest_self]
  case cut =>
    have hnow : s.now < a := hfuture a ha
    have hclock : s.now + (a - s.now) = a := Nat.add_sub_of_le hnow.le
    have hleft : n - (a - s.now) = s.now + n - a := by omega
    rw [idleTicks_arrival ha hin.le hfirst, idleRest_of_lt (by omega), hclock, hleft]

end Sys2Proof.Machine
end

section
/-! THEOREM. RESET (R260). -/

namespace Sys2Proof.Machine

/-- TIMER counts from the tick of the last RESET (R26). -/
theorem timer_of_timerBase {s : State} (h : s.timerBase = s.now) : s.timer = 0 := by
  rw [State.timer, h, Nat.sub_self, Nat.zero_mod]

/-- Settles O6: RESET leads to `resetBlock`, whose TIMER starts at its own tick. -/
theorem resetOperationRestoresTheResetState : Obligations.ResetOperationRestoresTheResetState :=
  fun s => ⟨resetBlock s, rfl, rfl, timer_of_timerBase rfl⟩

end Sys2Proof.Machine
end

section
/-! SUPPORT. How long a step can take (R280): at most so many ticks (`Within`), added up from one wait to a run step. -/

namespace Sys2Proof.Machine

/-! ## Bounded steps -/

/-- Run under the configuration c, the steps from s to t keep it and take at most n ticks. -/
def Within (c : Config) (n : Nat) (s t : State) : Prop :=
  s.cfg = c → t.cfg = c ∧ s.now ≤ t.now ∧ t.now ≤ s.now + n

section

variable {c : Config} {m n : Nat} {s t u : State}

theorem Within.refl (s : State) : Within c 0 s s := fun h => ⟨h, le_rfl, le_rfl⟩

theorem Within.mono (h : Within c m s t) (hmn : m ≤ n) : Within c n s t := fun hc => by
  obtain ⟨hcfg, hstart, hstop⟩ := h hc
  exact ⟨hcfg, hstart, by omega⟩

theorem Within.trans (a : Within c m s t) (b : Within c n t u) : Within c (m + n) s u := fun hc => by
  obtain ⟨hcfg, hstart, hstop⟩ := a hc
  obtain ⟨hcfg', hstart', hstop'⟩ := b hcfg
  exact ⟨hcfg', by omega, by omega⟩

theorem Within.of_now {k : Nat} (hcfg : t.cfg = s.cfg) (hnow : t.now = s.now + k) (hk : s.cfg = c → k ≤ n) :
    Within c n s t := fun hc => by
  have := hk hc
  exact ⟨hcfg.trans hc, by omega, by omega⟩

theorem Within.waitTicks {k : Nat} (s : State) (hk : s.cfg = c → k ≤ n) : Within c n s (waitTicks k s) :=
  .of_now rfl rfl hk

theorem Within.drive (k : Nat) (s : State) : Within c k s (setDrv false (Machine.waitTicks k (setDrv true s))) :=
  .of_now (Advances.drive k s).cfg rfl fun _ => le_rfl

/-- What writes neither the clock nor what lies outside the block takes no time. -/
theorem WritesOnly.within {W : List Part} (h : WritesOnly W s t) (hnow : .now ∉ W := by decide)
    (houtside : .outside ∉ W := by decide) : Within c 0 s t := fun hc =>
  have hclock : t.now = s.now := h .now hnow
  ⟨(congrArg Prod.fst (h .outside houtside)).trans hc, hclock.ge, hclock.le⟩

/-- Symbols put on the line take the time of their wave. -/
theorem Emits.within {syms : List Symbol} (h : s.cfg = c → Emits s t syms) : Within c (waveTicks c syms) s t :=
  fun hc => Within.of_now (h hc).cfg (h hc).time (fun hc => (congrArg (waveTicks · syms) hc).le) hc

theorem Res.Ends.thenWithin {α β : Type} {r : Res α} {k : α → State → Res β} (hr : r.Ends (Within c m s))
    (hk : ∀ a t, (k a t).Ends (Within c n t)) : (r.andThen k).Ends (Within c (m + n) s) := by
  cases r with
  | ok a t => exact (hk a t).imp fun _ h => Within.trans hr h
  | err e t => exact Within.mono hr (Nat.le_add_right m n)

/-- What is noted in a register before a step takes no time. -/
theorem Res.Ends.noted {α : Type} {r : Res α} (hr : r.Ends (Within c n t)) (hcfg : t.cfg = s.cfg := by rfl)
    (hnow : t.now = s.now := by rfl) : r.Ends (Within c n s) :=
  hr.imp fun _ h hc => hnow ▸ h (hcfg.trans hc)

theorem Within.finish {α : Type} {r : Res α} (hr : r.Ends (Within c n s)) {k : α → State → State}
    (hk : ∀ a t, Within c 0 t (k a t)) : Within c n s (finish r k) := by
  cases r with
  | ok a t => exact Within.trans hr (hk a t)
  | err e t => exact hr

theorem Within.exitFrame (h : Within c n s t) (prev : Bool) (r : ResultReg) : Within c n s (exitFrame prev r t) := by
  unfold Within
  rw [exitFrame_cfg, exitFrame_now]
  exact h

end

/-! ## Receive (R113, R114, R116, R118) -/

/-- The longest wait for a bit (R280): its pulse begins before `RX_TIMEOUT`, and ends by then after that. -/
def bitBound (c : Config) : Nat := 2 * c.rxTimeout - 1

/-- The longest slot of a frame that is read (R280). -/
def slotBound (c : Config) : Nat := bitBound c + c.t0Driven

section

variable {c : Config} (hwf : c.wf = true)
include hwf

theorem rxTimeout_le_bitBound : c.rxTimeout ≤ bitBound c := by
  have := wf_timing hwf
  unfold bitBound
  omega

theorem rxBit_within (s : State) : (rxBit s).Ends (Within c (bitBound c) s) := by
  have hsilent := rxTimeout_le_bitBound hwf
  have hpulse {g d : Nat} (hg : g < s.cfg.rxTimeout) (hd : d ≤ s.cfg.rxTimeout) :
      Within c (bitBound c) s (waitTicks d (waitTicks g s)) :=
    .of_now rfl (Nat.add_assoc _ _ _) fun hc => by
      subst hc
      unfold bitBound
      omega
  rcases rxBit_cases s with ⟨-, h⟩ | ⟨g, hg, -, -, ⟨-, h⟩ | ⟨d, hd, -, -, ⟨-, h⟩ | ⟨b, -, h⟩⟩⟩ <;> rw [h]
  · exact Within.waitTicks s fun hc => hc ▸ hsilent
  · exact hpulse hg le_rfl
  · exact hpulse hg hd.le
  · exact hpulse hg hd.le

theorem rxBits_within (k : Nat) (s : State) : (rxBits k s).Ends (Within c (k * bitBound c) s) := by
  induction k generalizing s with
  | zero => exact (Within.refl s).mono (Nat.zero_le _)
  | succ k ih =>
    rw [Nat.succ_mul, Nat.add_comm]
    exact (rxBit_within hwf s).thenWithin fun _ _ => (ih _).noted

theorem rxField_within (n : Nat) (s : State) : (rxField n s).Ends (Within c (n * bitBound c) s) :=
  Res.Ends.thenWithin (n := 0) (rxBits_within hwf n _).noted fun _ t => Within.refl t

omit hwf in
theorem rxStart_within (s : State) : (rxStart s).Ends (Within c (c.rxTimeout + c.tStartMax) s) := by
  have hpulse {g d : Nat} (hg : g < s.cfg.rxTimeout) (hd : d ≤ s.cfg.tStartMax + 1) :
      Within c (c.rxTimeout + c.tStartMax) s (waitTicks d (waitTicks g s)) :=
    .of_now rfl (Nat.add_assoc _ _ _) fun hc => by
      subst hc
      omega
  rcases rxStart_cases s with ⟨-, h⟩ | ⟨g, hg, -, -, ⟨-, h⟩ | ⟨d, hd, -, -, ⟨-, h⟩ | ⟨-, h⟩⟩⟩ <;> rw [h]
  · exact Within.waitTicks s fun hc => hc ▸ Nat.le_add_right _ _
  · exact hpulse hg le_rfl
  · exact hpulse hg hd.le
  · exact hpulse hg hd.le

theorem ackSend_within (s : State) : (ackSend s).Ends (Within c (slotBound c) s) := by
  have hsilent := rxTimeout_le_bitBound hwf
  have hpulse {g e : Nat} (hg : g < s.cfg.rxTimeout) (he : e ≤ s.cfg.rxTimeout) : Within c (slotBound c) s
      (waitTicks e (setDrv false (waitTicks s.cfg.t0Driven (setDrv true (waitTicks g s))))) := fun hc => by
    subst hc
    have hheld : Within s.cfg (s.cfg.rxTimeout - 1 + s.cfg.t0Driven + s.cfg.rxTimeout) s _ :=
      ((Within.waitTicks s fun _ => Nat.le_sub_one_of_lt hg).trans (.drive s.cfg.t0Driven _)).trans
        (.waitTicks (k := e) _ fun _ => he)
    refine hheld.mono ?_ rfl
    unfold slotBound bitBound
    omega
  rcases ackSend_cases s with ⟨-, h⟩ | ⟨g, hg, -, -, t, rfl, ⟨-, h⟩ | ⟨e, he, -, -, h⟩⟩ <;> rw [h]
  · exact Within.waitTicks s fun hc => hc ▸ (hsilent.trans (Nat.le_add_right _ _) : _ ≤ slotBound c)
  · exact hpulse hg le_rfl
  · exact hpulse hg he.le

/-! ## Reading a frame (R148, R149, R150) -/

theorem rxGroup_within (n : Nat) (f : FieldPos) (i : BitVec 6) (s : State) :
    (rxGroup n f i s).Ends (Within c ((n + 1) * bitBound c) s) := by
  rw [Nat.succ_mul]
  refine Res.Ends.thenWithin (rxField_within hwf n _).noted.atPos fun v t =>
    Res.Ends.thenWithin (n := 0) (rxBit_within hwf t).atPos fun p u => ?_
  split <;> exact Within.refl u

theorem rxAck_within (u forme : Bool) (f : FieldPos) (i : BitVec 6) (s : State) :
    (rxAck u forme f i s).Ends (Within c (slotBound c) s) := by
  have hbit : bitBound c ≤ slotBound c := Nat.le_add_right _ _
  cases u with
  | false => exact (Within.refl s).mono (Nat.zero_le _)
  | true =>
    cases forme with
    | true => exact (ackSend_within hwf (readAt f s)).noted.atPos
    | false =>
      have hread : (rxBit (readAt f s)).Ends (Within c (slotBound c) s) :=
        (rxBit_within hwf _).noted.imp fun _ h => Within.mono h hbit
      exact Res.Ends.thenWithin (n := 0) hread.atPos fun _ t => Within.refl t

theorem rxPayload_within (u forme : Bool) (k i : Nat) (s : State) :
    (rxPayload u forme k i s).Ends (Within c (k * (9 * bitBound c + slotBound c)) s) := by
  induction k generalizing i s with
  | zero => exact (Within.refl s).mono (Nat.zero_le _)
  | succ k ih =>
    rw [Nat.succ_mul, Nat.add_comm, Nat.add_assoc]
    exact (rxGroup_within hwf 8 _ _ _).noted.thenWithin fun _ _ =>
      (rxAck_within hwf _ _ _ _ _).noted.thenWithin fun _ _ => ih _ _

theorem readHead_within (s : State) :
    (readHead s).Ends (Within c (c.rxTimeout + c.tStartMax + 41 * bitBound c + 2 * slotBound c) s) := by
  have hread : (readHead s).Ends (Within c (c.rxTimeout + c.tStartMax + (bitBound c + (13 * bitBound c +
      (13 * bitBound c + (slotBound c + (5 * bitBound c + (slotBound c + 9 * bitBound c))))))) s) :=
    (rxStart_within _).noted.atPos.thenWithin fun _ _ => (rxBit_within hwf _).noted.atPos.thenWithin fun _ _ =>
    (rxGroup_within hwf 12 _ _ _).noted.thenWithin fun _ _ => (rxGroup_within hwf 12 _ _ _).noted.thenWithin fun _ _ =>
    (rxAck_within hwf _ _ _ _ _).noted.thenWithin fun _ _ => (rxGroup_within hwf 4 _ _ _).thenWithin fun _ _ =>
    (rxAck_within hwf _ _ _ _ _).noted.thenWithin fun _ _ => rxGroup_within hwf 8 _ _ _
  exact hread.imp fun _ h => Within.mono h (by omega)

theorem readBody_within (v : BitVec 12) (s : State) :
    (readBody v s).Ends
      (Within c (if lengthLegal v.toNat then slotBound c + v.toNat * (9 * bitBound c + slotBound c) else 0) s) := by
  unfold readBody
  split
  · exact (rxAck_within hwf _ _ _ _ _).noted.thenWithin fun _ _ =>
      Res.Ends.thenWithin (n := 0) (rxPayload_within hwf _ _ _ _ _) fun _ t => Within.refl t
  · exact Within.refl s

omit hwf in
theorem readBody_returns (v : BitVec 12) (s : State) : (readBody v s).Returns fun len _ => len = v.toNat := by
  unfold readBody
  split
  · exact .after _ fun _ _ => .after _ fun _ _ => rfl
  · trivial

omit hwf in
/-- The parts of a read add up to the bound of R280. -/
theorem readBound_eq (c : Config) (len : Nat) :
    c.rxTimeout + c.tStartMax + 41 * bitBound c + 2 * slotBound c +
      (slotBound c + len * (9 * bitBound c + slotBound c)) = readBound c len := by
  unfold readBound slotBound bitBound
  ring

theorem rxFrame_within (s : State) : (rxFrame s).Ends (Within c (readBound c 32) s) := by
  rw [rxFrame_eq]
  refine Res.Ends.imp (Res.Ends.thenWithin (readHead_within hwf s) fun v t =>
    (readBody_within hwf v t).imp fun _ h => Within.mono h ?_) fun _ h => (readBound_eq c 32) ▸ h
  split
  next hlen =>
    have := ((lengthLegal_iff _).mp hlen).2
    gcongr
  next => exact Nat.zero_le _

/-- A read that gets to its end is bounded by the length it has read. -/
theorem rxFrame_returns_within (s : State) : (rxFrame s).Returns fun len t => Within c (readBound c len) s t := by
  rw [rxFrame_eq]
  refine (readHead_within hwf s).returns.andThen fun v t hhead => ?_
  have hbody := readBody_within hwf v t
  have hlen := readBody_returns v t
  cases hr : readBody v t with
  | err e u => trivial
  | ok len u =>
    rw [hr] at hbody hlen
    obtain rfl : len = v.toNat := hlen
    show Within c (readBound c v.toNat) s u
    rw [← readBound_eq]
    refine hhead.trans (Within.mono hbody ?_)
    split
    · exact le_rfl
    · exact Nat.zero_le _

theorem readFrame_within (s : State) : Within c (readBound c 32) s (readFrame s) := by
  have hread := rxFrame_within hwf (reading s)
  cases hframe : rxFrame (reading s) with
  | ok len t =>
    rw [hframe] at hread
    rw [readFrame_read hframe]
    exact Within.exitFrame (by exact hread) _ _
  | err e t =>
    rw [hframe] at hread
    rw [readFrame_failed hframe]
    exact Within.exitFrame hread _ _

/-- A good read is bounded by the length it has read. -/
theorem readFrame_ok_within {s : State} (hok : (readFrame s).result.code = .ok) :
    Within c (readBound c (readFrame s).rxf.frame.length.toNat) s (readFrame s) := by
  have hread := rxFrame_returns_within hwf (reading s)
  have hlength := rxFrame_length (reading s)
  have hreports := rxFrame_reports (reading s)
  cases hframe : rxFrame (reading s) with
  | ok len t =>
    rw [hframe] at hread hlength
    obtain ⟨-, rfl⟩ := hlength
    rw [readFrame_read hframe]
    refine Within.exitFrame ?_ _ _
    rw [exitFrame_rxf]
    exact hread
  | err e t =>
    rw [hframe] at hreports
    rw [readFrame_failed hframe, exitFrame_result] at hok
    exact absurd hreports (by simp [Res.Raises, hok])

/-! ## Sending a frame (R145, R146, R147) -/

omit hwf in
/-- Everything the bus-free check can do (R145). -/
theorem busFree_cases (s : State) :
    (∃ e, e < s.cfg.tBit ∧ busFree s = (false, waitTicks e s)) ∨ busFree s = (true, waitTicks s.cfg.tBit s) := by
  rcases waitFor_cases .dominant s.cfg.tBit s with ⟨e, he, -, -, h⟩ | ⟨-, h⟩
  · exact .inl ⟨e, he, by rw [busFree, h]⟩
  · exact .inr (by rw [busFree, h])

omit hwf in
theorem busFree_within (s : State) : Within c c.tBit s (busFree s).2 := by
  rcases busFree_cases s with ⟨e, he, h⟩ | h <;> rw [h]
  · exact Within.waitTicks s fun hc => hc ▸ he.le
  · exact Within.waitTicks s fun hc => hc ▸ le_rfl

theorem txField_within {n : Nat} (h1 : 1 ≤ n) (h2 : n ≤ 12) (v : BitVec 12) (s : State) :
    Within c ((n + 1) * c.tBit) s (txField n v s) :=
  waveTicks_field c n v ▸ Emits.within fun hc => Emits.txField h1 h2 v (hc ▸ hwf)

theorem sendAddresses_within (u : Bool) (snd rcv : Addr) (s : State) :
    Within c (c.tStartDriven + c.tStartFloat + 27 * c.tBit) s (sendAddresses u snd rcv s) := by
  rw [← head_ticks c (c.modeBit u) snd rcv]
  refine Emits.within fun hc => ?_
  subst hc
  exact addresses_sent hwf u snd rcv

omit hwf in
/-- A slot ends within `RX_TIMEOUT`, and takes its bit period if it ends before (R117). -/
theorem ackRead_measures {s : State} (h : s.cfg.wf = true) :
    ∃ d ≤ s.cfg.rxTimeout, (ackRead s).2.dur = d ∧ (ackRead s).2.now = s.now + max d s.cfg.tBit := by
  have htiming := wf_timing h
  have hended {d : Nat} (h1 : s.cfg.t1Driven ≤ d) (h2 : d < s.cfg.rxTimeout)
      (hdrive : DrivenFrom s.env (s.now + s.cfg.t1Driven) (s.now + d)) (hrel : envDrives s.env (s.now + d) = false) :
      ∃ d ≤ s.cfg.rxTimeout, (ackRead s).2.dur = d ∧ (ackRead s).2.now = s.now + max d s.cfg.tBit :=
    ⟨d, h2.le, by rw [ackRead_eq h h1 h2 hdrive hrel], by rw [ackRead_eq h h1 h2 hdrive hrel]⟩
  obtain ⟨d, ⟨hmin, hmax, hdrive, hrel⟩ | ⟨hmin, -, hdrive, ⟨hlt, hrel⟩ | rfl⟩⟩ := slot_acked_or_not h s.env s.now
  · exact hended (by omega) (by omega) hdrive hrel
  · exact hended hmin hlt hdrive hrel
  · refine ⟨_, le_rfl, by rw [ackRead_stuck h hdrive], ?_⟩
    rw [ackRead_stuck h hdrive, max_eq_left (by omega)]

theorem ackRead_within (s : State) : Within c c.rxTimeout s (ackRead s).2 := fun hc => by
  subst hc
  have htiming := wf_timing hwf
  obtain ⟨d, hd, -, hnow⟩ := ackRead_measures hwf
  exact ⟨(Advances.ackRead s).cfg, (Advances.ackRead s).time, by omega⟩

/-- The longest slot of a frame that is sent; a broadcast frame has none (R82, R280). -/
def sentSlotBound (c : Config) (unicast : Bool) : Nat := if unicast then c.rxTimeout else 0

theorem txAck_within (u : Bool) (f : FieldPos) (i : BitVec 6) (s : State) :
    (txAck u f i s).Ends (Within c (sentSlotBound c u) s) := by
  cases u with
  | false => exact Within.refl s
  | true => exact txAck_ends (ackRead_within hwf (sendAt f s))

/-- A field and the slot after it (R146). -/
theorem sendGroup_within (u : Bool) (p q : FieldPos) (i : BitVec 6) {n : Nat} (h1 : 1 ≤ n) (h2 : n ≤ 12)
    (v : BitVec 12) (s : State) :
    (txAck u q i (txField n v (sendAt p s))).Ends (Within c ((n + 1) * c.tBit + sentSlotBound c u) s) :=
  (txAck_within hwf u q i _).imp fun _ h => Within.trans (txField_within hwf h1 h2 v (sendAt p s)) h

theorem txHead_within (u : Bool) (snd rcv : Addr) (ctl : BitVec 4) (len : BitVec 8) (s : State) :
    (txHead u snd rcv ctl len s).Ends
      (Within c (c.tStartDriven + c.tStartFloat + 41 * c.tBit + 3 * sentSlotBound c u) s) := by
  rw [txHead_eq]
  have haddresses : (txAck u .addrAck 0#6 (sendAddresses u snd rcv s)).Ends
      (Within c (c.tStartDriven + c.tStartFloat + 27 * c.tBit + sentSlotBound c u) s) :=
    (txAck_within hwf u _ _ _).imp fun _ h => (sendAddresses_within hwf u snd rcv s).trans h
  exact (haddresses.thenWithin fun _ _ =>
    (sendGroup_within hwf u _ _ _ (n := 4) (by omega) (by omega) _ _).thenWithin fun _ _ =>
    sendGroup_within hwf u _ _ _ (n := 8) (by omega) (by omega) _ _).imp fun _ h => Within.mono h (by omega)

theorem txPayload_within (u : Bool) (pay : Memory) (k i : Nat) (s : State) :
    (txPayload u pay k i s).Ends (Within c (k * (9 * c.tBit + sentSlotBound c u)) s) := by
  induction k generalizing i s with
  | zero => exact (Within.refl s).mono (Nat.zero_le _)
  | succ k ih =>
    rw [Nat.succ_mul, Nat.add_comm]
    exact (sendGroup_within hwf u _ _ _ (n := 8) (by omega) (by omega) _ _).noted.thenWithin fun _ _ => ih _ _

omit hwf in
/-- The bus-free check and the parts of a frame add up to the bound of R280. -/
theorem sendBound_eq (c : Config) (u : Bool) (len : Nat) :
    c.tBit + (c.tStartDriven + c.tStartFloat + 41 * c.tBit + 3 * sentSlotBound c u +
      len * (9 * c.tBit + sentSlotBound c u)) = sendBound c u len := by
  unfold sendBound sentSlotBound
  cases u <;> simp only [if_true, if_false, Bool.false_eq_true] <;> ring

omit hwf in
theorem sendBound_le_longest (c : Config) (u : Bool) {len : Nat} (h : len ≤ 32) :
    sendBound c u len ≤ sendBound c true 32 := by
  have hslots : (if u then (3 + len) * c.rxTimeout else 0) ≤ (3 + 32) * c.rxTimeout := by
    split
    · gcongr
    · exact Nat.zero_le _
  unfold sendBound
  rw [if_pos rfl]
  gcongr

theorem txFrame_within (f : Frame) (s : State) :
    (txFrame f s).Ends (Within c (c.tStartDriven + c.tStartFloat + 41 * c.tBit + 3 * sentSlotBound c f.unicast +
      f.length.toNat * (9 * c.tBit + sentSlotBound c f.unicast)) s) :=
  (txHead_within hwf _ _ _ _ _ s).thenWithin fun _ t => txPayload_within hwf _ _ _ _ t

theorem sendFrame_within (s : State) :
    Within c (sendBound c s.txf.unicast s.txf.length.toNat) s (sendFrame s) := by
  by_cases hlen : lengthLegal s.txf.length.toNat = true
  · rw [← sendBound_eq]
    rcases busFree_cases { s with masked := true } with ⟨e, he, hbus⟩ | hbus
    · have hbusy : Within c c.tBit s (waitTicks e { s with masked := true }) :=
        .of_now rfl rfl fun hc => he.le.trans_eq (congrArg Config.tBit hc)
      rw [sendFrame_busy hlen hbus]
      exact (hbusy.mono (Nat.le_add_right _ _)).exitFrame _ _
    · have hfree : Within c c.tBit s (onFreeBus s) := .of_now rfl rfl fun hc => hc ▸ le_rfl
      have hsent := txFrame_within hwf s.txf (onFreeBus s)
      cases hframe : txFrame s.txf (onFreeBus s) with
      | ok _ u =>
        rw [hframe] at hsent
        rw [sendFrame_sent hlen hbus hframe]
        exact Within.exitFrame (by exact hfree.trans hsent) _ _
      | err e u =>
        rw [hframe] at hsent
        rw [sendFrame_cut hlen hbus hframe]
        exact (hfree.trans hsent).exitFrame _ _
  · rw [sendFrame, if_neg hlen]
    exact (Within.refl s).mono (Nat.zero_le _)

/-- Any SEND_FRAME takes at most as long as one of the longest frame. -/
theorem sendFrame_within_longest (s : State) : Within c (sendBound c true 32) s (sendFrame s) := by
  by_cases hlen : lengthLegal s.txf.length.toNat = true
  · exact (sendFrame_within hwf s).mono (sendBound_le_longest c _ ((lengthLegal_iff _).mp hlen).2)
  · rw [sendFrame, if_neg hlen]
    exact (Within.refl s).mono (Nat.zero_le _)

/-! ## The drain and the run step (R209, R215) -/

theorem attempts_within (k : Nat) (s : State) : Within c (k * sendBound c true 32) s (attempts k s) := by
  induction k generalizing s with
  | zero => exact (writes_dropFrame s).within.mono (Nat.zero_le _)
  | succ k ih =>
    have hsent : Within c (sendBound c true 32) s (sendFrame { s with att := s.att + 1#2 }) :=
      sendFrame_within_longest hwf { s with att := s.att + 1#2 }
    rw [attempts_succ rfl, Nat.succ_mul, Nat.add_comm]
    split
    · exact hsent.mono (Nat.le_add_right _ _)
    · exact hsent.trans (ih _)

theorem drainOp_within (s : State) : Within c (drainBound c) s (drainOp s) := by
  unfold drainOp
  split
  · exact (writes_report _ s).within.mono (Nat.zero_le _)
  · exact attempts_within hwf maxAttempts { popHead s with att := 0#2 }

theorem receiveBranch_within (s : State) : Within c (readBound c 32) s (receiveBranch s) := by
  have hread := readFrame_within hwf s
  unfold receiveBranch
  dsimp only
  split
  · exact ((hread.trans (writes_dispatchOp _).within).trans (writes_applyActionOp _ _).within).trans
      (writes_respondOp _ _).within
  · exact hread

theorem runStepOp_within (s : State) : Within c (max (readBound c 32) (drainBound c)) s (runStepOp s) := by
  unfold runStepOp
  split
  · exact (receiveBranch_within hwf s).mono (le_max_left _ _)
  · split
    · refine ((writes_buildStatusOp s).within.trans (drainOp_within hwf _)).mono ?_
      rw [Nat.zero_add]
      exact le_max_right _ _
    · exact (writes_report _ s).within.mono (Nat.zero_le _)

end

end Sys2Proof.Machine
end

section
/-! THEOREM. How long an operation of the host port takes: the table of R280, and the operations that take exactly their
time. -/

namespace Sys2Proof.Machine

/-! ## The table of R280 -/

/-- The transmit operations take exactly the time of their symbols (R110, R111, R112). -/
theorem transmit_ticks {i : Instr} {s : State} (hwf : s.cfg.wf = true)
    (hi : (∃ v, i = .txBit v) ∨ i = .txStart ∨ ∃ n v, i = .txField n v ∧ 1 ≤ n.toNat ∧ n.toNat ≤ 12) :
    (after i s).cfg = s.cfg ∧ (after i s).now = s.now + durationBound s i := by
  rcases hi with ⟨v, rfl⟩ | rfl | ⟨n, v, rfl, h1, h2⟩
  · have hsent := Emits.txBit hwf v
    have htime := hsent.time
    rw [waveTicks_cons, waveTicks_nil, symbolTicks_ofBit] at htime
    exact ⟨hsent.cfg, htime⟩
  · exact ⟨(Emits.txStart s).cfg, (Emits.txStart s).time⟩
  · have hsent := Emits.txField h1 h2 v hwf
    have htime := hsent.time
    rw [waveTicks_field] at htime
    rw [← exec_eq_next_iff.mp (exec_txField h1 h2 v s)]
    exact ⟨hsent.cfg, htime⟩

/-- Every operation of the host port ends within the ticks of the table. -/
theorem after_within {i : Instr} {s : State} (hwf : s.cfg.wf = true) (hport : onWire i = false) :
    Within s.cfg (durationBound s i) s (after i s) := by
  have htransmit {i : Instr} (hi) : Within s.cfg (durationBound s i) s (after i s) :=
    have ⟨hcfg, hnow⟩ := transmit_ticks hwf hi
    .of_now hcfg hnow fun _ => le_rfl
  cases i with
  | nop | mask | dispatch | tick | buildStatus | qPush | qPop | reset | reserved1A | reserved1B | reserved1C | reserved1D
  | reserved1E | reserved1F => exact (writes_after _ s).within
  | applyAction a => exact (writes_applyActionOp a s).within
  | respond a => exact (writes_respondOp a s).within
  | wrTxf sel v => exact WritesOnly.within (W := [.txf]) (writes_after (.wrTxf sel v) s)
  | rdReg sel => exact WritesOnly.within (W := [.val]) (writes_after (.rdReg sel) s)
  | unmask p => exact (writes_after (.unmask p) s).within (by cases p <;> decide) (by cases p <;> decide)
  | txBit v => exact htransmit (.inl ⟨v, rfl⟩)
  | txStart => exact htransmit (.inr (.inl rfl))
  | txField n v =>
    by_cases hlegal : widthLegal n = true
    · obtain ⟨h1, h2⟩ := (widthLegal_iff n).mp hlegal
      exact htransmit (.inr (.inr ⟨n, v, rfl, h1, h2⟩))
    · rw [← exec_eq_next_iff.mp (exec_field_illegal hlegal v s).1]
      exact (Within.refl s).mono (Nat.zero_le _)
  | rxBit => exact Within.finish (rxBit_within hwf s) fun _ t => Within.refl t
  | rxField n =>
    rcases after_rxField n s with h | h <;> rw [h]
    · exact Within.finish (rxField_within hwf _ s) fun _ t => Within.refl t
    · exact (Within.refl s).mono (Nat.zero_le _)
  | rxStart => exact Within.finish (rxStart_within s) fun _ t => Within.refl t
  | ackRead => exact ackRead_within hwf s
  | ackSend => exact Within.finish (ackSend_within hwf s) fun _ t => Within.refl t
  | busFree => rcases after_busFree s with h | h <;> rw [h] <;> exact busFree_within s
  | sendFrame => exact sendFrame_within hwf s
  | readFrame => exact readFrame_within hwf s
  | qDrain => exact drainOp_within hwf s
  | runStep => exact runStepOp_within hwf s
  | symbol1 | symbol0 | symbolStart | ackSlot _ | frameHeadUnicast _ _ _ _ | frameHeadBroadcast _ _ _ _
  | dataGroupUnicast _ | dataGroupBroadcast _ => exact nomatch hport

/-! ## Operations that take exactly their time -/

/-- The bus-free check takes a bit period when the bus is free, and less when it is busy (R145). -/
theorem busFree_ticks (s : State) :
    ((after .busFree s).val = 1#12 ∧ (after .busFree s).now = s.now + s.cfg.tBit) ∨
      ((after .busFree s).val = 0#12 ∧ (after .busFree s).now < s.now + s.cfg.tBit) := by
  rcases busFree_cases s with ⟨e, he, h⟩ | h <;> rw [← exec_eq_next_iff.mp (exec_busFree h)]
  · exact .inr ⟨rfl, Nat.add_lt_add_left he s.now⟩
  · exact .inl ⟨rfl, rfl⟩

/-- A slot that ends within the bit period takes the bit period (R117). -/
theorem ackRead_ticks {s : State} (hwf : s.cfg.wf = true) (hdur : (after .ackRead s).dur < s.cfg.tBit) :
    (after .ackRead s).now = s.now + s.cfg.tBit := by
  obtain ⟨d, -, hd, hnow⟩ := ackRead_measures hwf
  have hshort : d < s.cfg.tBit := hd ▸ hdur
  exact hnow.trans (by rw [max_eq_right hshort.le])

/-- A broadcast frame on a free bus: the bus-free check and the symbols of the frame (R146, R86). -/
theorem sendFrame_broadcast_ticks {s : State} (hwf : s.cfg.wf = true) (hlen : lengthLegal s.txf.length.toNat = true)
    (hu : s.txf.unicast = false) (hbusy : (sendFrame s).result.code ≠ .busy) :
    (sendFrame s).now = s.now + sendBound s.cfg s.txf.unicast s.txf.length.toNat := by
  rcases busFree_cases { s with masked := true } with ⟨e, -, hbus⟩ | hbus
  · rw [sendFrame_busy hlen hbus, exitFrame_result] at hbusy
    exact absurd rfl hbusy
  · obtain ⟨t, ht, hsent⟩ := txFrame_broadcast (s := onFreeBus s) hwf (f := s.txf) hu
    have hticks := frame_ticks s.cfg hlen
    have htime : t.now = s.now + s.cfg.tBit + waveTicks s.cfg (frameSymbols s.cfg s.txf) := hsent.time
    rw [sendFrame_sent hlen hbus ht, exitFrame_now]
    simp only [hu, Bool.false_eq_true, if_false] at hticks
    simp only [sendBound, hu, Bool.false_eq_true, if_false]
    show t.now = _
    omega

/-! ## The obligation -/

/-- Settles O39: the bounds are those of `Within`, step by step; the operations that take exactly their time one by
one. -/
theorem everyOperationEndsInBoundedTime : Obligations.EveryOperationEndsInBoundedTime := by
  intro i s t hwf hport hexec
  obtain rfl := exec_eq_next_iff.mp hexec
  obtain ⟨-, hstart, hstop⟩ := after_within hwf hport rfl
  refine ⟨hstart, hstop, fun hi => (transmit_ticks hwf hi).2, ?_, ?_, ?_, ?_⟩
  · rintro rfl
    exact busFree_ticks s
  · rintro rfl
    exact ackRead_ticks hwf
  · rintro rfl hu hmin hmax
    exact sendFrame_broadcast_ticks hwf ((lengthLegal_iff _).mpr ⟨hmin, hmax⟩) hu
  · rintro rfl hok
    exact (readFrame_ok_within hwf hok rfl).2.2

end Sys2Proof.Machine
end
